-- ==== Sys2Proof/Word.lean ====
section
/-! DEFINITION. The fixed-width values of the block (00_scope.md R17): all unsigned, bit 0 least significant. -/

namespace Sys2Proof

/-- A byte: 8 bits (R17). -/
abbrev Byte := BitVec 8

/-- A 16-bit value: the CRC, the checksum, the data of a response (R13, R24, R25). -/
abbrev Word := BitVec 16

/-- A command word: 24 bits (30_encoding.md R65). -/
abbrev Command := BitVec 24

end Sys2Proof
end

