-- ==== Sys2Proof/Config.lean ====
section
/-! DEFINITION. The parameters the spec fixes (00_scope.md R7) and the control bytes it lists (30_encoding.md R64).
Nothing is left to an implementation but `T_op` (R8, R205), which no rule depends on: no opaque constant stands here. -/

namespace Sys2Proof.Config

/-- `PAYLOAD_LEN` (R7). -/
abbrev payloadLen : Nat := 128

/-- `FRAME_LEN` (R7): 1 + 1 + 1 + 128 + 2. -/
abbrev frameLen : Nat := 133

/-- `FILL_BYTE` (R7). -/
abbrev fillByte : Byte := 0xFF#8

/-- `CRC_POLY` (R7). -/
abbrev crcPoly : Word := 0x1021#16

/-- `CRC_INIT` (R7). `CRC_REFIN`, `CRC_REFOUT` and `CRC_XOROUT` are false, false and zero: steps that
`crc16Byte` and `crc16` do not have. -/
abbrev crcInit : Word := 0x0000#16

/-- `BLK_FIRST` (R7). -/
abbrev blkFirst : Byte := 0x01#8

/-- The control bytes of R64. The block produces `soh` alone. -/
inductive ControlByte where
  | soh | eot | ack | nak | can | ncg
deriving DecidableEq, Repr

/-- Their values (R64). -/
def ControlByte.value : ControlByte → Byte
  | .soh => 0x01#8
  | .eot => 0x04#8
  | .ack => 0x06#8
  | .nak => 0x15#8
  | .can => 0x18#8
  | .ncg => 0x43#8

/-- `SOH` (R7, R64). -/
abbrev soh : Byte := ControlByte.soh.value

end Sys2Proof.Config
end

