-- ==== Sys2Proof/Syntax.lean ====
section
/-! DEFINITION. The twelve operations (30_encoding.md R68), their operand forms (R66), and a command word's three
fields (R65). One constructor of `Instr` for each row of spec/opcode_table.json. -/

namespace Sys2Proof

/-- The four operand forms (R66). -/
inductive Form where
  /-- NONE: `a` and `b` unused. -/
  | none
  /-- A8: `a` an 8-bit immediate, `b` unused. -/
  | a8
  /-- IDX: `a[6:0]` a payload index, `a[7]` zero, `b` unused. -/
  | idx
  /-- IDX_B8: `a[6:0]` a payload index, `a[7]` zero, `b` a data byte. -/
  | idxB8
deriving DecidableEq, Repr

/-- The names of the twelve operations (R68). -/
inductive Op where
  | sysRst | sysStat | crcClr | crcUpd | crcRd | pktInit
  | pktFill | pktPoke | pktPeek | pktCsum | pktNext | pktEmit
deriving DecidableEq, Repr

/-- An operation with its operands. An index is 7 bits wide: no other can be expressed (20_memory.md R49). -/
inductive Instr where
  /-- `SYS.RST` (42_system.md R130). -/
  | sysRst
  /-- `SYS.STAT` (R131). -/
  | sysStat
  /-- `CRC.CLR` (40_crc.md R86). -/
  | crcClr
  /-- `CRC.UPD b` (R87). -/
  | crcUpd (b : Byte)
  /-- `CRC.RD` (R88). -/
  | crcRd
  /-- `PKT.INIT n` (41_packet.md R104). -/
  | pktInit (n : Byte)
  /-- `PKT.FILL` (R106); its input comes from the source port, not from the word (30_encoding.md R70). -/
  | pktFill
  /-- `PKT.POKE i, b` (R112). -/
  | pktPoke (i : BitVec 7) (b : Byte)
  /-- `PKT.PEEK i` (R114). -/
  | pktPeek (i : BitVec 7)
  /-- `PKT.CSUM` (R116). -/
  | pktCsum
  /-- `PKT.NEXT` (R118). -/
  | pktNext
  /-- `PKT.EMIT` (R120). -/
  | pktEmit
deriving DecidableEq, Repr

/-- The three fields of a command word (R65), before any check. -/
structure RawCommand where
  /-- bits 23:16 -/
  op : Byte
  /-- bits 15:8 -/
  a : Byte
  /-- bits 7:0 -/
  b : Byte
deriving DecidableEq, Repr

/-- Why a word is reserved (R72). -/
inductive Reserved where
  /-- R72 (a): no operation has this `op`. -/
  | unknownOpcode
  /-- R72 (b): a listed `op` with a nonzero unused field. -/
  | unusedBits
  /-- R72 (c): `PKT.POKE` or `PKT.PEEK` with `a[7] = 1`. -/
  | indexRange
deriving DecidableEq, Repr

end Sys2Proof
end

