-- ==== Sys2Proof/WellFormed.lean ====
section
/-! DEFINITION. Which operand fields are legal for a form (30_encoding.md R66, R72). The types of `Instr` carry every
bound of an operation's operands, so every term of `Instr` is well formed; the checks are those on a command's raw
fields. -/

namespace Sys2Proof

/-- The unused fields of the form are zero, and so is `a[7]` where `a` is an index (R66). -/
def RawCommand.fits (c : RawCommand) : Form → Bool
  | .none => c.a == 0#8 && c.b == 0#8
  | .a8 => c.b == 0#8
  | .idx => !c.a.msb && c.b == 0#8
  | .idxB8 => !c.a.msb

end Sys2Proof
end

