-- ==== Sys2Proof/Decode.lean ====
section
/-! DEFINITION. The command word's encoding (30_encoding.md R65 to R74): the opcode map, decoding, which is total and
names why it rejects a word, and encoding. Also the mnemonics (R75) and the pseudo-operations (R76). -/

namespace Sys2Proof

/-- The operations in the order of R68. -/
def Op.all : List Op :=
  [.sysRst, .sysStat, .crcClr, .crcUpd, .crcRd, .pktInit,
   .pktFill, .pktPoke, .pktPeek, .pktCsum, .pktNext, .pktEmit]

/-- Column `op` of R68. -/
def Op.code : Op → Byte
  | .sysRst => 0x01#8
  | .sysStat => 0x02#8
  | .crcClr => 0x10#8
  | .crcUpd => 0x11#8
  | .crcRd => 0x12#8
  | .pktInit => 0x20#8
  | .pktFill => 0x21#8
  | .pktPoke => 0x22#8
  | .pktPeek => 0x23#8
  | .pktCsum => 0x24#8
  | .pktNext => 0x25#8
  | .pktEmit => 0x26#8

/-- Column `form` of R68. -/
def Op.form : Op → Form
  | .sysRst | .sysStat | .crcClr | .crcRd | .pktFill | .pktCsum | .pktNext | .pktEmit => .none
  | .crcUpd | .pktInit => .a8
  | .pktPoke => .idxB8
  | .pktPeek => .idx

/-- Column `match` of R68. -/
def Op.matchBits : Op → Command
  | .sysRst => 0x010000#24
  | .sysStat => 0x020000#24
  | .crcClr => 0x100000#24
  | .crcUpd => 0x110000#24
  | .crcRd => 0x120000#24
  | .pktInit => 0x200000#24
  | .pktFill => 0x210000#24
  | .pktPoke => 0x220000#24
  | .pktPeek => 0x230000#24
  | .pktCsum => 0x240000#24
  | .pktNext => 0x250000#24
  | .pktEmit => 0x260000#24

/-- Column `mask` of R68. -/
def Op.maskBits : Op → Command
  | .sysRst => 0xFFFFFF#24
  | .sysStat => 0xFFFFFF#24
  | .crcClr => 0xFFFFFF#24
  | .crcUpd => 0xFF00FF#24
  | .crcRd => 0xFFFFFF#24
  | .pktInit => 0xFF00FF#24
  | .pktFill => 0xFFFFFF#24
  | .pktPoke => 0xFF8000#24
  | .pktPeek => 0xFF80FF#24
  | .pktCsum => 0xFFFFFF#24
  | .pktNext => 0xFFFFFF#24
  | .pktEmit => 0xFFFFFF#24

/-- Column `mnemonic` of R68. -/
def Op.mnemonic : Op → String
  | .sysRst => "SYS.RST"
  | .sysStat => "SYS.STAT"
  | .crcClr => "CRC.CLR"
  | .crcUpd => "CRC.UPD"
  | .crcRd => "CRC.RD"
  | .pktInit => "PKT.INIT"
  | .pktFill => "PKT.FILL"
  | .pktPoke => "PKT.POKE"
  | .pktPeek => "PKT.PEEK"
  | .pktCsum => "PKT.CSUM"
  | .pktNext => "PKT.NEXT"
  | .pktEmit => "PKT.EMIT"

/-- A word selects an operation's row when `w AND mask = match` (R68). -/
def Op.selects (o : Op) (w : Command) : Bool := (w &&& o.maskBits) == o.matchBits

/-- Field `op` (R65). -/
def Command.fieldOp (w : Command) : Byte := w.extractLsb' 16 8

/-- Field `a` (R65). -/
def Command.fieldA (w : Command) : Byte := w.extractLsb' 8 8

/-- Field `b` (R65). -/
def Command.fieldB (w : Command) : Byte := w.extractLsb' 0 8

/-- The index `w[14:8]` of the IDX forms (R69). -/
def Command.fieldIndex (w : Command) : BitVec 7 := w.extractLsb' 8 7

/-- The three fields of a word (R65). -/
def RawCommand.ofWord (w : Command) : RawCommand :=
  { op := Command.fieldOp w, a := Command.fieldA w, b := Command.fieldB w }

/-- The word of three fields: `op ‖ a ‖ b` (R65). -/
def RawCommand.toWord (c : RawCommand) : Command := c.op ++ c.a ++ c.b

/-- The operation whose row the word selects, with the operands taken from the word (R66, R69). -/
def Op.build (o : Op) (w : Command) : Instr :=
  match o with
  | .sysRst => .sysRst
  | .sysStat => .sysStat
  | .crcClr => .crcClr
  | .crcUpd => .crcUpd (Command.fieldA w)
  | .crcRd => .crcRd
  | .pktInit => .pktInit (Command.fieldA w)
  | .pktFill => .pktFill
  | .pktPoke => .pktPoke (Command.fieldIndex w) (Command.fieldB w)
  | .pktPeek => .pktPeek (Command.fieldIndex w)
  | .pktCsum => .pktCsum
  | .pktNext => .pktNext
  | .pktEmit => .pktEmit

/-- The operation that a byte of field `op` names, if any (R68, R72 (a)). -/
def Op.ofCode? (c : Byte) : Option Op := Op.all.find? fun o => o.code == c

/-- Which clause of R72 makes a word that selects no row reserved. -/
def reservedReason (w : Command) : Reserved :=
  match Op.ofCode? (Command.fieldOp w) with
  | none => .unknownOpcode
  | some o =>
    match o.form with
    | .none | .a8 => .unusedBits
    | .idx | .idxB8 => if (Command.fieldA w).msb then .indexRange else .unusedBits

/-- The decode procedure of R69. It reads no state; a word that selects no row is reserved (R72). -/
def decode (w : Command) : Except Reserved Instr :=
  match Op.all.find? fun o => o.selects w with
  | some o => .ok (o.build w)
  | none => .error (reservedReason w)

/-- The operation an instruction is of. -/
def Instr.op : Instr → Op
  | .sysRst => .sysRst
  | .sysStat => .sysStat
  | .crcClr => .crcClr
  | .crcUpd _ => .crcUpd
  | .crcRd => .crcRd
  | .pktInit _ => .pktInit
  | .pktFill => .pktFill
  | .pktPoke _ _ => .pktPoke
  | .pktPeek _ => .pktPeek
  | .pktCsum => .pktCsum
  | .pktNext => .pktNext
  | .pktEmit => .pktEmit

/-- Field `a` of an instruction's word: the immediate, or `0 ‖ index`, or zero (R66). -/
def Instr.operandA : Instr → Byte
  | .crcUpd b => b
  | .pktInit n => n
  | .pktPoke i _ => 0#1 ++ i
  | .pktPeek i => 0#1 ++ i
  | .sysRst | .sysStat | .crcClr | .crcRd | .pktFill | .pktCsum | .pktNext | .pktEmit => 0#8

/-- Field `b` of an instruction's word: the data byte of PKT.POKE, else zero (R66). -/
def Instr.operandB : Instr → Byte
  | .pktPoke _ b => b
  | .sysRst | .sysStat | .crcClr | .crcUpd _ | .crcRd | .pktInit _ | .pktFill | .pktPeek _
  | .pktCsum | .pktNext | .pktEmit => 0#8

/-- An instruction's three fields (R65, R66). -/
def Instr.raw (i : Instr) : RawCommand :=
  { op := i.op.code, a := i.operandA, b := i.operandB }

/-- The command word of an instruction (R65, R68). -/
def encode (i : Instr) : Command := i.raw.toWord

/-- The instruction read from the low `nbits` bits of `w`, numbered as spec/opcode_table.json numbers them. A command
is one 24-bit word, so the number is the word. -/
def decodeTableWord (nbits w : Nat) : Option Instr :=
  match decode (BitVec.ofNat 24 (w % 2 ^ nbits)) with
  | .ok i => some i
  | .error _ => none

/-- The pseudo-operations (R76); none has an opcode. -/
inductive Pseudo where
  /-- `CRC.BUF s` -/
  | crcBuf (s : List Byte)
  /-- `PKT.SEND` -/
  | pktSend
  /-- `PKT.BUILD n` -/
  | pktBuild (n : Byte)
  /-- `PKT.RESEND` -/
  | pktResend
deriving DecidableEq, Repr

/-- What a pseudo-operation expands to (R76). -/
def Pseudo.expand : Pseudo → List Instr
  | .crcBuf s => .crcClr :: (s.map Instr.crcUpd ++ [.crcRd])
  | .pktSend => [.pktFill, .pktCsum, .pktEmit]
  | .pktBuild n => [.pktInit n, .pktFill, .pktCsum, .pktEmit]
  | .pktResend => [.pktEmit]

/-- An instruction's operands, as an assembler line lists them: indexes and bytes as decimal numbers (R75). -/
def Instr.operandText : Instr → List String
  | .crcUpd b => [Nat.repr b.toNat]
  | .pktInit n => [Nat.repr n.toNat]
  | .pktPoke i b => [Nat.repr i.toNat, Nat.repr b.toNat]
  | .pktPeek i => [Nat.repr i.toNat]
  | .sysRst | .sysStat | .crcClr | .crcRd | .pktFill | .pktCsum | .pktNext | .pktEmit => []

/-- An instruction's assembler line: the mnemonic, then its operands separated by commas (R75). -/
def Instr.text (i : Instr) : String :=
  match i.operandText with
  | [] => i.op.mnemonic
  | os => i.op.mnemonic ++ " " ++ String.intercalate ", " os

end Sys2Proof
end

