-- ==== Sys2Proof/Machine/State.lean ====
section
/-! DEFINITION. The machine's state: the block's own state, which is the tuple of 10_state.md R20 and nothing else, and
what crosses its ports, which the spec keeps outside the block (R33) and a step that is a function of State alone must
find in State. Plain data throughout. -/

namespace Sys2Proof.Machine

/-- A byte memory as (address, byte) pairs. In its one canonical form (`Memory.wf`) addresses rise strictly. An address
not listed holds NO VALUE: it is `NOVAL` (00_scope.md R19). -/
abbrev Memory := List Host.Cell

/-- What the host can do to the block: issue a command word, or assert `rst` between operations (R12, R16, R192). -/
inductive HostInput where
  /-- A command word on the command port (R12). -/
  | cmd (w : Command)
  /-- `rst` asserted between operations (R16, R192). -/
  | rst
deriving DecidableEq, Repr

/-- The bytes of one source answer: never more than 128 (00_scope.md R14). -/
structure SrcBytes where
  bytes : List Byte
  atMost128 : bytes.length ≤ 128
deriving DecidableEq, Repr

/-- One answer of the source to a `PKT.FILL` (R14, 30_encoding.md R70). -/
inductive SrcResponse where
  /-- `SrcData(d, eos)`; `eos` says that the source's end is confirmed. -/
  | data (d : SrcBytes) (eos : Bool)
  /-- `SrcFail`: hard read failure. -/
  | fail
deriving DecidableEq, Repr

/-- One response on the response port (R13, 30_encoding.md R67). -/
structure Response where
  /-- `rsp_err`: 0 for success, else the fault code. -/
  err : BitVec 4
  /-- `rsp_data`. -/
  data : Word
deriving DecidableEq, Repr

/-- The faults the block raises (60_exceptions.md R170). Raising one is a NEXT state (R174), never a stop of the
model. -/
inductive BlockFault where
  /-- Raised by `PKT.EMIT` when `VALID = 0` and by `PKT.CSUM`, `PKT.POKE`, `PKT.PEEK` when `FILLED = 0`. -/
  | illegalState
  /-- Raised by `PKT.FILL` on a transient short read or a source failure. -/
  | fileReadError
  /-- Raised at decode for a reserved word. -/
  | illegalCommand
deriving DecidableEq, Repr

/-- The state. -/
structure State where
  /-- `BLK`, the block number of the current packet (R21). -/
  blk : Byte
  /-- `PAY`, the payload, addresses 0 to 127 (R23, 20_memory.md R40). -/
  pay : Memory
  /-- `CHK`, the checksum of the current packet; `none` is `NOVAL` (R24). -/
  chk : Option Word
  /-- `CRC`, the accumulator of the CRC generator (R25). -/
  crc : Word
  /-- `FILLED` (R27). -/
  filled : Bool
  /-- `VALID` (R28). -/
  valid : Bool
  /-- `ERR`, 0 or the code of the first fault since reset (R31). -/
  err : BitVec 4
  /-- Command port and `rst`: the host's pending inputs, next first. The model's own field (log entry 1). -/
  inputs : List HostInput
  /-- The command taken and not yet answered; `cmd_ready` is 1 exactly when there is none (R12). The model's own field
  (log entry 2). -/
  busy : Option Command
  /-- Source port: the answers the source gives to the next `PKT.FILL` operations, next first. The model's own field
  (log entry 3). -/
  src : List SrcResponse
  /-- Source port: a request to the source stands unanswered (R14). The model's own field (log entry 3). -/
  srcReq : Bool
  /-- TX port: the sink takes the bytes offered to it (R15, 70_reset_and_hazards.md R202). The model's own field (log
  entry 4). -/
  sinkReady : Bool
  /-- Response port: the responses given so far, oldest first (R13). The model's own field (log entry 5). -/
  rsps : List Response
  /-- TX port: the TX stream, oldest byte first (R15, 20_memory.md R43). The model's own field (log entry 5). -/
  tx : List Byte
deriving DecidableEq, Repr

/-- Why the model stops. -/
inductive Fault where
  /-- Raised by `PKT.PEEK`, `PKT.CSUM` and `PKT.EMIT` in a state where the flag they check says that storage holds a
  value and it holds none. No run reaches such a state, and the spec has no operation that succeeds in reading `NOVAL`
  (00_scope.md R19, 41_packet.md R101). Safe: the model stops where the spec says nothing. -/
  | noValueRead
deriving DecidableEq, Repr

/-- Why the model refuses an instruction. -/
inductive Refusal where
  /-- Raised by `exec` alone, for an instruction that has no meaning yet; every instruction has one, so nothing raises
  it. Safe. -/
  | notModelled (mnemonic : String)
deriving DecidableEq, Repr

/-- The state right after reset (10_state.md R36, 70_reset_and_hazards.md R190). The block's own fields have the values
of R36; the ports' fields have the values of log entries 1 to 5 (DESIGN CHOICE): nothing pending, nothing sent. -/
def State.reset : State :=
  { blk := 0x01#8
    pay := []
    chk := none
    crc := 0x0000#16
    filled := false
    valid := false
    err := 0#4
    inputs := []
    busy := none
    src := []
    srcReq := false
    sinkReady := true
    rsps := []
    tx := [] }

end Sys2Proof.Machine
end

