-- ==== Sys2Proof/Machine/Ops.lean ====
section
/-! DEFINITION. The named operations over memory and registers: reading and writing `PAY` (00_scope.md R18), emptying
and loading the packet, answering a command (R67), raising a fault (60_exceptions.md R174), refusing (R175), resetting
(70_reset_and_hazards.md R190), and the ports. There is no return from a fault but reset (R178). -/

namespace Sys2Proof.Machine

/-- What a meaning answers. -/
abbrev Out := Host.Outcome State Fault Refusal

/-- The addresses of `m` from `lo` on rise strictly and are payload addresses (20_memory.md R40). -/
def Memory.wfFrom : Nat → Memory → Bool
  | _, [] => true
  | lo, (k, _) :: m => decide (lo ≤ k) && decide (k < Config.payloadLen) && Memory.wfFrom (k + 1) m

/-- The canonical form: addresses strictly rising, none above 127. -/
def Memory.wf (m : Memory) : Bool := Memory.wfFrom 0 m

/-- The byte at an address; `none` is `NOVAL` (R19). -/
def Memory.read : Memory → Nat → Option Byte
  | [], _ => none
  | (k, v) :: m, a => if k = a then some v else Memory.read m a

/-- The memory with the byte at an address written. -/
def Memory.write : Memory → Nat → Byte → Memory
  | [], a, v => [(a, v)]
  | (k, x) :: m, a, v =>
    if a < k then (a, v) :: (k, x) :: m
    else if a = k then (a, v) :: m
    else (k, x) :: Memory.write m a v

/-- The `n` bytes from address `a` on in ascending order, if each holds a value. -/
def Memory.bytesFrom (m : Memory) : Nat → Nat → Option (List Byte)
  | _, 0 => some []
  | a, n + 1 =>
    match Memory.read m a with
    | none => none
    | some b =>
      match Memory.bytesFrom m (a + 1) n with
      | none => none
      | some bs => some (b :: bs)

/-- A memory that holds the bytes of a list from address `a` on and nothing else. -/
def Memory.ofBytesFrom : Nat → List Byte → Memory
  | _, [] => []
  | a, b :: bs => (a, b) :: Memory.ofBytesFrom (a + 1) bs

/-- `MemRead(i, 1)` (R18): byte `i` of `PAY`, or `NOVAL`. -/
def memRead (i : BitVec 7) (s : State) : Option Byte := Memory.read s.pay i.toNat

/-- `MemWrite(i, 1, v)` (R18). -/
def memWrite (i : BitVec 7) (v : Byte) (s : State) : State :=
  { s with pay := Memory.write s.pay i.toNat v }

/-- `[PAY[0], ..., PAY[127]]`, if every byte holds a value. -/
def payload (s : State) : Option (List Byte) := Memory.bytesFrom s.pay 0 Config.payloadLen

/-- The code of a fault (60_exceptions.md R171). -/
def BlockFault.code : BlockFault → BitVec 4
  | .illegalState => 0x1#4
  | .fileReadError => 0x2#4
  | .illegalCommand => 0x3#4

/-- `respond(v)` (00_scope.md R18, 30_encoding.md R67): the one response of the command in progress, a success. -/
def respond (v : Word) (s : State) : State :=
  { s with busy := none, rsps := s.rsps ++ [{ err := 0#4, data := v }] }

/-- `raise F`: the fault procedure (60_exceptions.md R174). `ERR` was 0, by the dispatch order of R173. -/
def raise (f : BlockFault) (s : State) : State :=
  { s with err := f.code, busy := none, rsps := s.rsps ++ [{ err := f.code, data := 0x0000#16 }] }

/-- A refusal: the response of a halted block, which changes nothing (R173 step 4, R175). -/
def refuse (s : State) : State :=
  { s with busy := none, rsps := s.rsps ++ [{ err := s.err, data := 0x0000#16 }] }

/-- R173 step 4: a halted block refuses; otherwise the operation goes on. -/
def whenRunning (s : State) (k : Out) : Out :=
  if s.err = 0#4 then k else .next (refuse s)

/-- R173 steps 4 and 5: a reserved word is refused by a halted block and raises `IllegalCommand` in a running one
(R172). -/
def reservedWord (s : State) : Out := whenRunning s (.next (raise .illegalCommand s))

/-- The packet emptied: `FILLED <- 0 ; PAY <- NOVAL ; VALID <- 0 ; CHK <- NOVAL` (41_packet.md R104, R106, R118). -/
def emptyPacket (s : State) : State :=
  { s with filled := false, pay := [], valid := false, chk := none }

/-- The packet loaded with its bytes: all of `PAY` written, `FILLED <- 1 ; VALID <- 0 ; CHK <- NOVAL` (R106). -/
def loadPacket (bytes : List Byte) (s : State) : State :=
  { s with filled := true, pay := Memory.ofBytesFrom 0 bytes, valid := false, chk := none }

/-- `VALID <- 0 ; CHK <- NOVAL`, what every payload write does (10_state.md R28, 41_packet.md R112). -/
def invalidate (s : State) : State := { s with valid := false, chk := none }

/-- `TX <- TX ++ f` (00_scope.md R15, R18). -/
def appendTx (f : List Byte) (s : State) : State := { s with tx := s.tx ++ f }

/-- The effect of reset on the block's own state, by `rst` or `SYS.RST` alike (70_reset_and_hazards.md R190). Nothing
outside the block changes (R193). -/
def resetBlock (s : State) : State :=
  { emptyPacket s with blk := 0x01#8, crc := 0x0000#16, err := 0#4 }

/-- The source is asked and has not answered: the operation in progress goes on waiting (41_packet.md R111,
70_reset_and_hazards.md R202). -/
def awaitSource (s : State) : State := { s with srcReq := true }

/-- The source has answered: the answer is consumed (20_memory.md R42), and the request no longer stands. -/
def sourceAnswered (rest : List SrcResponse) (s : State) : State :=
  { s with src := rest, srcReq := false }

end Sys2Proof.Machine
end

