-- ==== Sys2Proof/Machine/Operands.lean ====
section
/-! DEFINITION. Operands and returned values: widening to the 16 bits of a response (00_scope.md R17, 30_encoding.md
R67), splitting and joining a 16-bit value (20_memory.md R45 to R47). Immediates and indexes are used as they stand
(30_encoding.md R66), and an index addresses `PAY` through `memRead` and `memWrite`. -/

namespace Sys2Proof.Machine

/-- `zext_16(v)` (R17). -/
def zext16 {n : Nat} (v : BitVec n) : Word := v.setWidth 16

/-- The count that `PKT.FILL` returns, 0 to 128 (41_packet.md R106). -/
def countData (n : Nat) : Word := BitVec.ofNat 16 n

/-- `v[15:8]`. -/
def hiByte (v : Word) : Byte := v.extractLsb' 8 8

/-- `v[7:0]`. -/
def loByte (v : Word) : Byte := v.extractLsb' 0 8

/-- `swap16(v) = v[7:0] ‖ v[15:8]` (R18). No operation uses it (20_memory.md R46). -/
def swap16 (v : Word) : Word := loByte v ++ hiByte v

end Sys2Proof.Machine
end

