-- ==== Sys2Proof/Machine/Flags.lean ====
section
/-! DEFINITION. The views of the state: `STATUS` (10_state.md R30), `NBLK` (R22), `cmd_ready` (00_scope.md R12), and the
lifecycle of the packet (10_state.md R29, 41_packet.md R100). -/

namespace Sys2Proof.Machine

/-- `STATUS = ERR ‖ 0b00 ‖ VALID ‖ FILLED` (R30). -/
def State.status (s : State) : Byte :=
  s.err ++ 0b00#2 ++ BitVec.ofBool s.valid ++ BitVec.ofBool s.filled

/-- `NBLK = ~BLK` (R22). -/
def State.nblk (s : State) : Byte := ~~~s.blk

/-- `cmd_ready`: the block takes a command (00_scope.md R12). -/
def State.cmdReady (s : State) : Bool := s.busy.isNone

/-- `ERR != 0` (10_state.md R31). -/
def State.halted (s : State) : Bool := s.err != 0#4

/-- The states of the lifecycle (R29, R100). -/
inductive Lifecycle where
  | empty | loaded | framed | halted
deriving DecidableEq, Repr

/-- The lifecycle state (R29, R100). `VALID = 1` implies `FILLED = 1` in every state a run reaches. -/
def State.lifecycle (s : State) : Lifecycle :=
  if s.err ≠ 0#4 then .halted
  else if s.valid then .framed
  else if s.filled then .loaded
  else .empty

end Sys2Proof.Machine
end

