-- ==== Sys2Proof/Machine/Crc.lean ====
section
/-! DEFINITION. The CRC generator (40_crc.md): the byte step (R82), the CRC of a sequence (R84), the two other forms of
the byte step (R83) with the table (R95), and the operations CRC.CLR, CRC.UPD, CRC.RD (R86 to R88). -/

namespace Sys2Proof.Machine

/-- One of the 8 steps of R82: a 16-bit left shift, and the polynomial XORed on when bit 15 was set before it. -/
def crcShift (c : Word) : Word :=
  if c.getLsbD 15 then (c <<< 1) ^^^ Config.crcPoly else c <<< 1

/-- The step made `n` times. -/
def crcShifts : Nat → Word → Word
  | 0, c => c
  | n + 1, c => crcShifts n (crcShift c)

/-- `crc16_byte(c, b)` (R82). -/
def crc16Byte (c : Word) (b : Byte) : Word := crcShifts 8 (c ^^^ (zext16 b <<< 8))

/-- `f c`, written by the value of `c`, so that Lean's kernel computes `c` once before it goes on with `f`. -/
def evaluated {α : Type} (c : Word) (f : Word → α) : α :=
  match c.toNat with
  | 0 => f 0x0000#16
  | n + 1 => f (BitVec.ofNat 16 (n + 1))

/-- Going on from `c` over a sequence, in ascending index (R84, R93). -/
def crc16From : Word → List Byte → Word
  | c, [] => c
  | c, b :: s => evaluated (crc16Byte c b) fun d => crc16From d s

/-- `crc16(s)` (R84): starts at `CRC_INIT`, with no final XOR. -/
def crc16 (s : List Byte) : Word := crc16From Config.crcInit s

/-- One clock of the shift register of R83 (a), fed bit `k` of the byte. -/
def crcSerialBit (b : Byte) (k : Nat) (c : Word) : Word :=
  if c.getLsbD 15 ^^ b.getLsbD k then (c <<< 1) ^^^ Config.crcPoly else c <<< 1

/-- Bits `n - 1` down to 0 of the byte fed to the shift register. -/
def crcSerialBits (b : Byte) : Nat → Word → Word
  | 0, c => c
  | n + 1, c => crcSerialBits b n (crcSerialBit b n c)

/-- The bit-serial form of the byte step (R83 (a)). -/
def crc16ByteSerial (c : Word) (b : Byte) : Word := crcSerialBits b 8 c

/-- Rows `0x00` to `0x38` of the table of R95. -/
def crcTableA : List Word :=
  [0x0000#16, 0x1021#16, 0x2042#16, 0x3063#16, 0x4084#16, 0x50A5#16, 0x60C6#16, 0x70E7#16,
   0x8108#16, 0x9129#16, 0xA14A#16, 0xB16B#16, 0xC18C#16, 0xD1AD#16, 0xE1CE#16, 0xF1EF#16,
   0x1231#16, 0x0210#16, 0x3273#16, 0x2252#16, 0x52B5#16, 0x4294#16, 0x72F7#16, 0x62D6#16,
   0x9339#16, 0x8318#16, 0xB37B#16, 0xA35A#16, 0xD3BD#16, 0xC39C#16, 0xF3FF#16, 0xE3DE#16,
   0x2462#16, 0x3443#16, 0x0420#16, 0x1401#16, 0x64E6#16, 0x74C7#16, 0x44A4#16, 0x5485#16,
   0xA56A#16, 0xB54B#16, 0x8528#16, 0x9509#16, 0xE5EE#16, 0xF5CF#16, 0xC5AC#16, 0xD58D#16,
   0x3653#16, 0x2672#16, 0x1611#16, 0x0630#16, 0x76D7#16, 0x66F6#16, 0x5695#16, 0x46B4#16,
   0xB75B#16, 0xA77A#16, 0x9719#16, 0x8738#16, 0xF7DF#16, 0xE7FE#16, 0xD79D#16, 0xC7BC#16]

/-- Rows `0x40` to `0x78` of the table of R95. -/
def crcTableB : List Word :=
  [0x48C4#16, 0x58E5#16, 0x6886#16, 0x78A7#16, 0x0840#16, 0x1861#16, 0x2802#16, 0x3823#16,
   0xC9CC#16, 0xD9ED#16, 0xE98E#16, 0xF9AF#16, 0x8948#16, 0x9969#16, 0xA90A#16, 0xB92B#16,
   0x5AF5#16, 0x4AD4#16, 0x7AB7#16, 0x6A96#16, 0x1A71#16, 0x0A50#16, 0x3A33#16, 0x2A12#16,
   0xDBFD#16, 0xCBDC#16, 0xFBBF#16, 0xEB9E#16, 0x9B79#16, 0x8B58#16, 0xBB3B#16, 0xAB1A#16,
   0x6CA6#16, 0x7C87#16, 0x4CE4#16, 0x5CC5#16, 0x2C22#16, 0x3C03#16, 0x0C60#16, 0x1C41#16,
   0xEDAE#16, 0xFD8F#16, 0xCDEC#16, 0xDDCD#16, 0xAD2A#16, 0xBD0B#16, 0x8D68#16, 0x9D49#16,
   0x7E97#16, 0x6EB6#16, 0x5ED5#16, 0x4EF4#16, 0x3E13#16, 0x2E32#16, 0x1E51#16, 0x0E70#16,
   0xFF9F#16, 0xEFBE#16, 0xDFDD#16, 0xCFFC#16, 0xBF1B#16, 0xAF3A#16, 0x9F59#16, 0x8F78#16]

/-- Rows `0x80` to `0xB8` of the table of R95. -/
def crcTableC : List Word :=
  [0x9188#16, 0x81A9#16, 0xB1CA#16, 0xA1EB#16, 0xD10C#16, 0xC12D#16, 0xF14E#16, 0xE16F#16,
   0x1080#16, 0x00A1#16, 0x30C2#16, 0x20E3#16, 0x5004#16, 0x4025#16, 0x7046#16, 0x6067#16,
   0x83B9#16, 0x9398#16, 0xA3FB#16, 0xB3DA#16, 0xC33D#16, 0xD31C#16, 0xE37F#16, 0xF35E#16,
   0x02B1#16, 0x1290#16, 0x22F3#16, 0x32D2#16, 0x4235#16, 0x5214#16, 0x6277#16, 0x7256#16,
   0xB5EA#16, 0xA5CB#16, 0x95A8#16, 0x8589#16, 0xF56E#16, 0xE54F#16, 0xD52C#16, 0xC50D#16,
   0x34E2#16, 0x24C3#16, 0x14A0#16, 0x0481#16, 0x7466#16, 0x6447#16, 0x5424#16, 0x4405#16,
   0xA7DB#16, 0xB7FA#16, 0x8799#16, 0x97B8#16, 0xE75F#16, 0xF77E#16, 0xC71D#16, 0xD73C#16,
   0x26D3#16, 0x36F2#16, 0x0691#16, 0x16B0#16, 0x6657#16, 0x7676#16, 0x4615#16, 0x5634#16]

/-- Rows `0xC0` to `0xF8` of the table of R95. -/
def crcTableD : List Word :=
  [0xD94C#16, 0xC96D#16, 0xF90E#16, 0xE92F#16, 0x99C8#16, 0x89E9#16, 0xB98A#16, 0xA9AB#16,
   0x5844#16, 0x4865#16, 0x7806#16, 0x6827#16, 0x18C0#16, 0x08E1#16, 0x3882#16, 0x28A3#16,
   0xCB7D#16, 0xDB5C#16, 0xEB3F#16, 0xFB1E#16, 0x8BF9#16, 0x9BD8#16, 0xABBB#16, 0xBB9A#16,
   0x4A75#16, 0x5A54#16, 0x6A37#16, 0x7A16#16, 0x0AF1#16, 0x1AD0#16, 0x2AB3#16, 0x3A92#16,
   0xFD2E#16, 0xED0F#16, 0xDD6C#16, 0xCD4D#16, 0xBDAA#16, 0xAD8B#16, 0x9DE8#16, 0x8DC9#16,
   0x7C26#16, 0x6C07#16, 0x5C64#16, 0x4C45#16, 0x3CA2#16, 0x2C83#16, 0x1CE0#16, 0x0CC1#16,
   0xEF1F#16, 0xFF3E#16, 0xCF5D#16, 0xDF7C#16, 0xAF9B#16, 0xBFBA#16, 0x8FD9#16, 0x9FF8#16,
   0x6E17#16, 0x7E36#16, 0x4E55#16, 0x5E74#16, 0x2E93#16, 0x3EB2#16, 0x0ED1#16, 0x1EF0#16]

/-- The table `T` as R95 prints it. No operation uses it. -/
def crcTable : List Word := crcTableA ++ crcTableB ++ crcTableC ++ crcTableD

/-- `T[j]` (R95). -/
def crcTableAt (j : Byte) : Word := crcTable.getD j.toNat 0x0000#16

/-- The table-driven form of the byte step (R83 (b)). -/
def crc16ByteTable (c : Word) (b : Byte) : Word := (c <<< 8) ^^^ crcTableAt (hiByte c ^^^ b)

/-- `CRC.CLR` (R86). -/
def execCrcClr (s : State) : Out :=
  whenRunning s (.next (respond 0x0000#16 { s with crc := Config.crcInit }))

/-- `CRC.UPD b` (R87). -/
def execCrcUpd (b : Byte) (s : State) : Out :=
  whenRunning s (.next (respond 0x0000#16 { s with crc := crc16Byte s.crc b }))

/-- `CRC.RD` (R88). -/
def execCrcRd (s : State) : Out := whenRunning s (.next (respond s.crc s))

end Sys2Proof.Machine
end

