-- ==== Sys2Proof/Machine/Packet.lean ====
section
/-! DEFINITION. The packet framer (41_packet.md): PKT.INIT, PKT.FILL, PKT.POKE, PKT.PEEK, PKT.CSUM, PKT.NEXT, PKT.EMIT,
and the wire frame (30_encoding.md R60). -/

namespace Sys2Proof.Machine

/-- The wire frame `SOH ‖ BLK ‖ ~BLK ‖ payload ‖ CRC-hi ‖ CRC-lo` (30_encoding.md R60, 41_packet.md R120). -/
def frame (blk : Byte) (bytes : List Byte) (chk : Word) : List Byte :=
  [Config.soh, blk, blk ^^^ 0xFF#8] ++ bytes ++ [hiByte chk, loByte chk]

/-- Short reads padded with the fill byte up to the payload's length (R108). -/
def padded (bytes : List Byte) : List Byte :=
  bytes ++ List.replicate (Config.payloadLen - bytes.length) Config.fillByte

/-- `raise FileReadError`, with the packet left empty (R109, R110). -/
def fillFault (s : State) : State := raise .fileReadError (emptyPacket s)

/-- The packet filled with `bytes`, of which `n` came from the source; the response is `n` (R106). -/
def fillDone (n : Nat) (bytes : List Byte) (s : State) : State :=
  respond (countData n) (loadPacket bytes s)

/-- What `PKT.FILL` does with the source's answer (R106 to R110). -/
def fillWith (r : SrcResponse) (s : State) : State :=
  match r with
  | .fail => fillFault s
  | .data d eos =>
    if d.bytes.length = Config.payloadLen then fillDone d.bytes.length d.bytes s
    else if eos then fillDone d.bytes.length (padded d.bytes) s
    else fillFault s

/-- `PKT.INIT n` (R104). -/
def execPktInit (n : Byte) (s : State) : Out :=
  whenRunning s (.next (respond 0x0000#16 { emptyPacket s with blk := n }))

/-- `PKT.FILL` (R106 to R111). With no answer of the source it waits (R111, 70_reset_and_hazards.md R202). -/
def execPktFill (s : State) : Out :=
  whenRunning s
    (match s.src with
     | [] => .next (awaitSource s)
     | r :: rest => .next (fillWith r (sourceAnswered rest s)))

/-- `PKT.POKE i, b` (R112). -/
def execPktPoke (i : BitVec 7) (b : Byte) (s : State) : Out :=
  whenRunning s
    (if s.filled = false then .next (raise .illegalState s)
     else .next (respond 0x0000#16 (invalidate (memWrite i b s))))

/-- `PKT.PEEK i` (R114). -/
def execPktPeek (i : BitVec 7) (s : State) : Out :=
  whenRunning s
    (if s.filled = false then .next (raise .illegalState s)
     else
       match memRead i s with
       | some b => .next (respond (zext16 b) s)
       | none => .fault .noValueRead)

/-- `CRC <- c ; CHK <- c ; VALID <- 1 ; respond(c)` for the CRC `c` of the payload (R116). -/
def csumDone (c : Word) (s : State) : State :=
  respond c { s with crc := c, chk := some c, valid := true }

/-- `PKT.CSUM` (R116). -/
def execPktCsum (s : State) : Out :=
  whenRunning s
    (if s.filled = false then .next (raise .illegalState s)
     else
       match payload s with
       | some bytes => .next (csumDone (crc16 bytes) s)
       | none => .fault .noValueRead)

/-- `PKT.NEXT` (R118): the block number wraps modulo 256 (40_crc.md R89). -/
def execPktNext (s : State) : Out :=
  whenRunning s (.next (respond (zext16 (s.blk + 1#8)) { emptyPacket s with blk := s.blk + 1#8 }))

/-- The frame of the current packet, if its payload and checksum hold values (R120). -/
def currentFrame (s : State) : Option (List Byte) :=
  match payload s, s.chk with
  | some bytes, some c => some (frame s.blk bytes c)
  | _, _ => none

/-- `PKT.EMIT` (R120 to R122). With a sink that does not accept it waits (70_reset_and_hazards.md R202). -/
def execPktEmit (s : State) : Out :=
  whenRunning s
    (if s.valid = false then .next (raise .illegalState s)
     else
       match currentFrame s with
       | none => .fault .noValueRead
       | some f => if s.sinkReady then .next (respond 0x0000#16 (appendTx f s)) else .next s)

end Sys2Proof.Machine
end

