-- ==== Sys2Proof/Machine/System.lean ====
section
/-! DEFINITION. The system operations SYS.RST and SYS.STAT (42_system.md R130, R131), which a halted block does not
refuse (60_exceptions.md R173 steps 2 and 3). -/

namespace Sys2Proof.Machine

/-- `SYS.RST` (R130). -/
def execSysRst (s : State) : Out := .next (respond 0x0000#16 (resetBlock s))

/-- `SYS.STAT` (R131): its response has `err = 0` even when the block is halted. -/
def execSysStat (s : State) : Out := .next (respond (zext16 s.status) s)

end Sys2Proof.Machine
end

