-- ==== Sys2Proof/Machine/Dispatch.lean ====
section
/-! DEFINITION. One arm for each of the twelve operations (30_encoding.md R68, 60_exceptions.md R173 step 6). -/

namespace Sys2Proof.Machine
open Sys2Proof

def exec (i : Instr) (s : State) : Host.Outcome State Fault Refusal :=
  match i with
  | .sysRst => Sys2Proof.Machine.execSysRst s
  | .sysStat => Sys2Proof.Machine.execSysStat s
  | .crcClr => Sys2Proof.Machine.execCrcClr s
  | .crcUpd b => Sys2Proof.Machine.execCrcUpd b s
  | .crcRd => Sys2Proof.Machine.execCrcRd s
  | .pktInit n => Sys2Proof.Machine.execPktInit n s
  | .pktFill => Sys2Proof.Machine.execPktFill s
  | .pktPoke k b => Sys2Proof.Machine.execPktPoke k b s
  | .pktPeek k => Sys2Proof.Machine.execPktPeek k s
  | .pktCsum => Sys2Proof.Machine.execPktCsum s
  | .pktNext => Sys2Proof.Machine.execPktNext s
  | .pktEmit => Sys2Proof.Machine.execPktEmit s

end Sys2Proof.Machine
end

