-- ==== Sys2Proof/Machine/Command.lean ====
section
/-! DEFINITION. Taking the host's inputs: the command port and `rst` (00_scope.md R12, R16, 70_reset_and_hazards.md
R192), and the dispatch of a command word (60_exceptions.md R173). -/

namespace Sys2Proof.Machine

/-- The dispatch of R173. The order of its steps: decode; `SYS.RST` and `SYS.STAT` run whether or not the block is
halted; a halted block refuses every other word, a reserved one too; the meanings of the other operations make the same
halted check first (`whenRunning`). -/
def dispatch (w : Command) (s : State) : Out :=
  match decode w with
  | .ok i => exec i s
  | .error _ => reservedWord s

/-- The state with the command word `w` taken from the command port: `cmd_ready` is 0 until its response (R12). -/
def takeCommand (w : Command) (rest : List HostInput) (s : State) : State :=
  { s with inputs := rest, busy := some w }

/-- `rst` taken between operations: the reset effect, and no response (R190, R192). -/
def takeRst (rest : List HostInput) (s : State) : State := resetBlock { s with inputs := rest }

/-- One transaction. A command in progress goes on until it has its response, and nothing else is taken before it (R12,
R192); otherwise the host's next input is taken, and with none nothing happens. -/
def runInput (s : State) : Out :=
  match s.busy with
  | some w => dispatch w s
  | none =>
    match s.inputs with
    | [] => .next s
    | .rst :: rest => .next (takeRst rest s)
    | .cmd w :: rest => dispatch w (takeCommand w rest s)

/-- The state with the word `w` placed so that the next transaction takes it: nothing in progress, and the word the
host's next input. -/
def placeWord (w : Command) (s : State) : State :=
  { s with busy := none, inputs := .cmd w :: s.inputs }

end Sys2Proof.Machine
end

