-- ==== Sys2Proof/Machine/Step.lean ====
section
/-! DEFINITION. One step is one transaction of the block (00_scope.md R11). -/

namespace Sys2Proof.Machine

/-- One transaction: `runInput` says what is taken and done. -/
def step (s : State) : Host.Outcome State Fault Refusal := runInput s

/-- `s` with the instruction whose word is `w`, numbered as spec/opcode_table.json numbers it, the host's next command.
The block has no program counter and no fetch (10_state.md R26); the host's command stream stands in their place. -/
def State.withFetchWord (s : State) (nbits w : Nat) : State :=
  placeWord (BitVec.ofNat 24 (w % 2 ^ nbits)) s

end Sys2Proof.Machine
end

