-- ==== Sys2Proof/Safety.lean ====
section
/-! DEFINITION. What counts as a safe state and a safe run, in the terms the statements use: the invariant of the machine
(10_state.md R23, R24, R29; 42_system.md R131; 00_scope.md R12), the lifecycle table (41_packet.md R100), a run of several
steps, the transmission of an image (R124), and division over GF(2) (40_crc.md R81). -/

namespace Sys2Proof.Machine

/-- The invariant that every step keeps. -/
structure StateInv (s : State) : Prop where
  /-- `PAY` has the memory's canonical form, with addresses 0 to 127 (20_memory.md R40). -/
  payForm : Memory.wf s.pay = true
  /-- While `FILLED = 0` every byte of `PAY` is `NOVAL` (R23). -/
  payEmpty : s.filled = false → s.pay = []
  /-- `FILLED = 1` means that every byte of `PAY` holds a value (R27). -/
  payFull : s.filled = true → (payload s).isSome = true
  /-- `VALID = 1` implies `FILLED = 1` (R29). -/
  validFilled : s.valid = true → s.filled = true
  /-- While `VALID = 0`, `CHK` is `NOVAL` (R24). -/
  chkNone : s.valid = false → s.chk = none
  /-- When `VALID = 1`, `CHK` is the CRC of the payload (R24). -/
  chkCurrent : s.valid = true → s.chk = (payload s).map crc16
  /-- `ERR` holds 0 or the code of a fault (60_exceptions.md R171). -/
  errLegal : s.err = 0#4 ∨ s.err = 1#4 ∨ s.err = 2#4 ∨ s.err = 3#4
  /-- `IllegalState` is raised only with `VALID = 0` (42_system.md R131). -/
  errState : s.err = 1#4 → s.valid = false
  /-- `FileReadError` leaves the packet `EMPTY` (R131). -/
  errRead : s.err = 2#4 → s.filled = false
  /-- With no command in progress no request to the source stands (00_scope.md R14). -/
  portsIdle : s.busy = none → s.srcReq = false
  /-- A command left in progress is a `PKT.FILL` that waits for the source or a `PKT.EMIT` that waits for the sink
  (70_reset_and_hazards.md R202). -/
  portsWaiting : ∀ w, s.busy = some w → s.err = 0#4 ∧
    ((w = 0x210000#24 ∧ s.srcReq = true) ∨ (w = 0x260000#24 ∧ s.srcReq = false ∧ s.valid = true))

/-- The source's answers on which `PKT.FILL` succeeds: a full read, or a short read at the confirmed end (R107, R108).
On the others it raises `FileReadError` (R109, R110). -/
def SrcResponse.good : SrcResponse → Bool
  | .data d eos => d.bytes.length == Config.payloadLen || eos
  | .fail => false

/-- The table of R100 in the column of an operation that ends with the source's answer taken; `fillOk` says which of
the two columns of `PKT.FILL` applies. "fault" leads to halted. -/
def lifecycleTable (l : Lifecycle) (i : Instr) (fillOk : Bool) : Lifecycle :=
  match i, l with
  | .sysRst, _ => .empty
  | _, .halted => .halted
  | .sysStat, l | .crcClr, l | .crcUpd _, l | .crcRd, l => l
  | .pktInit _, _ | .pktNext, _ => .empty
  | .pktFill, _ => if fillOk then .loaded else .halted
  | .pktPoke _ _, .empty | .pktPeek _, .empty | .pktCsum, .empty | .pktEmit, .empty => .halted
  | .pktPoke _ _, _ => .loaded
  | .pktPeek _, l => l
  | .pktCsum, _ => .framed
  | .pktEmit, .loaded => .halted
  | .pktEmit, .framed => .framed

/-- `n` steps, as far as each answers a next state. -/
def stepN : Nat → State → Out
  | 0, s => .next s
  | n + 1, s =>
    match step s with
    | .next t => stepN n t
    | .fault r => .fault r
    | .refused r => .refused r

/-- Chunk `j` (from 0) of an image: its bytes from `128 j` on, at most 128 (R124). -/
def chunk (m : List Byte) (j : Nat) : List Byte :=
  (m.drop (Config.payloadLen * j)).take Config.payloadLen

/-- A chunk as the bytes of one answer of the source. -/
def chunkBytes (m : List Byte) (j : Nat) : SrcBytes :=
  ⟨chunk m j, List.length_take_le _ _⟩

/-- `K`, the number of packets of an image of `L` bytes (R124). -/
def packetCount (l : Nat) : Nat := if l = 0 then 1 else (l + 127) / 128

/-- The answers of a source that delivers the image in order: a short read confirms the end, and a full read reports
whatever `e` says, which is not looked at (R107, R124). -/
def imageAnswers (m : List Byte) (e : Nat → Bool) : List SrcResponse :=
  (List.range (packetCount m.length)).map fun j =>
    .data (chunkBytes m j) (decide ((chunk m j).length < Config.payloadLen) || e j)

/-- The canonical order of R102 for one packet, sent once. -/
def packetCommands : List HostInput :=
  [.cmd (encode .pktFill), .cmd (encode .pktCsum), .cmd (encode .pktEmit), .cmd (encode .pktNext)]

/-- The canonical order for `k` packets. -/
def imageCommands (k : Nat) : List HostInput := (List.replicate k packetCommands).flatten

/-- The frames of an image, the first with block number `blk` (R124). -/
def imageFrames (blk : Byte) (m : List Byte) : List Byte :=
  (List.range (packetCount m.length)).flatMap fun j =>
    frame (blk + BitVec.ofNat 8 j) (padded (chunk m j)) (crc16 (padded (chunk m j)))

/-- The number whose binary digits are the bits of a message, first bit highest (40_crc.md R81). -/
def messageNumber (s : List Byte) : Nat := s.foldl (fun n b => n * 256 + b.toNat) 0

/-- The product over GF(2) of the polynomial whose coefficients are `q`, highest first, and the one whose coefficients
are the binary digits of `p`. -/
def gf2Mul (q : List Bool) (p : Nat) : Nat :=
  q.foldl (fun acc bit => (acc * 2) ^^^ (if bit then p else 0)) 0

/-- `x^16 + x^12 + x^5 + 1`, its `x^16` term included (R81). -/
def generator : Nat := 0x11021

end Sys2Proof.Machine
end

