-- ==== Sys2Proof/Certificates/Slice0/Obligations.lean ====
section
/-! DEFINITION. The statements for the provers. Each docstring names the rule of spec/ that it formalises. A response is
written `⟨err, data⟩`. Where a next state is written `{ s with … }`, every field not written there is unchanged: that is
the instruction's frame. -/

open Sys2Proof Sys2Proof.Machine

/-! ### Encoding -/

/-- Words written out from the encodings of 30_encoding.md R65, R68 and 95_test_vectors.md 2.7 decode to what they stand
for, one or more of each family, and reserved words (R72) to the reason. -/
def Obligations.SampleWordsDecode : Prop :=
  decode 0b00000001_00000000_00000000#24 = .ok .sysRst ∧
  decode 0b00010001_10100101_00000000#24 = .ok (.crcUpd 0xA5#8) ∧
  decode 0b00100000_11111111_00000000#24 = .ok (.pktInit 0xFF#8) ∧
  decode 0b00100010_01111111_10000000#24 = .ok (.pktPoke 127#7 0x80#8) ∧
  decode 0b00100011_00000101_00000000#24 = .ok (.pktPeek 5#7) ∧
  decode 0b00100110_00000000_00000000#24 = .ok .pktEmit ∧
  decode 0x270000#24 = .error .unknownOpcode ∧
  decode 0x110001#24 = .error .unusedBits ∧
  decode 0x228000#24 = .error .indexRange

/-- Decoding the encoded word of any instruction gives it back, at every value of every operand (R65, R66, R68, R69). -/
def Obligations.DecodeOfEncode : Prop := ∀ i : Instr, decode (encode i) = .ok i

/-- Each word that decodes is the one encoding of what it decodes to: no bit of it is dropped (R68, R73). -/
def Obligations.EncodeOfDecode : Prop := ∀ (w : Command) (i : Instr), decode w = .ok i → encode i = w

/-- The decode procedure of R69: the row that a word selects is its operation, with `a = w[15:8]`, `b = w[7:0]` as its
fields; a word that selects no row is undecodable. -/
def Obligations.DecodeSelectsRow : Prop :=
  (∀ (o : Op) (w : Command), w &&& o.maskBits = o.matchBits →
    ∃ i, decode w = .ok i ∧ i.op = o ∧ i.operandA = w.extractLsb' 8 8 ∧ i.operandB = w.extractLsb' 0 8) ∧
  (∀ w : Command, (∀ o : Op, w &&& o.maskBits ≠ o.matchBits) → ∃ r, decode w = .error r)

/-- Field by field (R66, R72): a word decodes exactly when its `op` is listed and its operand fields fit the form; the
three ways to be reserved are an `op` not listed, an index of 128 or more, and else a nonzero unused field. -/
def Obligations.ReservedByField : Prop :=
  ∀ w : Command,
    ((∃ i, decode w = .ok i) ↔
      ∃ o : Op, o.code = w.extractLsb' 16 8 ∧ (RawCommand.ofWord w).fits o.form = true) ∧
    (decode w = .error .unknownOpcode ↔ ∀ o : Op, o.code ≠ w.extractLsb' 16 8) ∧
    (decode w = .error .indexRange ↔
      (w.extractLsb' 16 8 = 0x22#8 ∨ w.extractLsb' 16 8 = 0x23#8) ∧ w.getLsbD 15 = true)

/-- Of the 2^24 words, the legal ones number 33416 (R72). -/
def Obligations.LegalWordCount : Prop :=
  Nat.card { w : Command // ∃ i, decode w = .ok i } = 33416

/-! ### The step -/

/-- A word taken from the command port that decodes to `i` is executed: the step is `exec i`, on the state with the word
removed from the host's inputs and in progress (00_scope.md R12, 60_exceptions.md R173). -/
def Obligations.StepRunsDecodedCommand : Prop :=
  ∀ (s : State) (w : Command) (rest : List HostInput) (i : Instr),
    s.busy = none → s.inputs = .cmd w :: rest → decode w = .ok i →
    step s = exec i { s with inputs := rest, busy := some w }

/-- A command in progress goes on by being executed again in the next step: the model's form of waiting, its choice of
log entry 2 (DEDUCED from R11, R111, R202). That no other input is taken before the response is R12 and
70_reset_and_hazards.md R192. -/
def Obligations.StepContinuesCommandInProgress : Prop :=
  ∀ (s : State) (w : Command) (i : Instr),
    s.busy = some w → decode w = .ok i → step s = exec i s

/-- With no command in progress and no input of the host the state stays as it is. The model's choice, log entry 1: the
spec names no step there (R26: the block executes exactly the operations the host issues). -/
def Obligations.StepWithoutInputIdles : Prop :=
  ∀ s : State, s.busy = none → s.inputs = [] → step s = .next s

/-- R172: a word that matches no row, taken by a block that is not halted, raises `IllegalCommand`; no state other than
`ERR` changes, and the word is recorded nowhere. -/
def Obligations.ReservedWordRaisesIllegalCommand : Prop :=
  ∀ (s : State) (w : Command) (rest : List HostInput),
    s.busy = none → s.inputs = .cmd w :: rest → s.err = 0#4 →
    (∀ o : Op, w &&& o.maskBits ≠ o.matchBits) →
    step s = .next { s with err := 3#4, inputs := rest, rsps := s.rsps ++ [⟨3#4, 0x0000#16⟩] }

/-- R175: while `ERR` is not 0, every command word other than those of `SYS.RST` and `SYS.STAT`, legal or reserved, is
refused with the code of the original fault; nothing changes, and no source answer is asked for or consumed. -/
def Obligations.HaltedBlockRefuses : Prop :=
  ∀ (s : State) (w : Command) (rest : List HostInput),
    s.busy = none → s.inputs = .cmd w :: rest → s.err ≠ 0#4 →
    w ≠ 0x010000#24 → w ≠ 0x020000#24 →
    step s = .next { s with inputs := rest, rsps := s.rsps ++ [⟨s.err, 0x0000#16⟩] }

/-- R190: the `rst` input and `SYS.RST` have the same effect on state; `SYS.RST` gives a response, `rst` does not. After
either the packet is `EMPTY` with block number 1 and the block is not halted. -/
def Obligations.BothResetsHaveOneEffect : Prop :=
  (∀ (s : State) (rest : List HostInput), s.busy = none → s.inputs = .rst :: rest →
    step s = .next { s with blk := 0x01#8, pay := [], chk := none, crc := 0x0000#16, filled := false, valid := false,
                            err := 0#4, inputs := rest }) ∧
  (∀ s : State, exec .sysRst s =
    .next { s with blk := 0x01#8, pay := [], chk := none, crc := 0x0000#16, filled := false, valid := false,
                   err := 0#4, busy := none, rsps := s.rsps ++ [⟨0#4, 0x0000#16⟩] }) ∧
  (∀ s t : State, exec .sysRst s = .next t →
    t.lifecycle = .empty ∧ t.blk = 0x01#8 ∧ t.halted = false ∧ ∀ a, Memory.read t.pay a = none)

/-- 10_state.md R36: every element of the state after reset, the two views included, for the model's reset state and
after either kind of reset from any state; the TX stream is not reset. -/
def Obligations.ResetValues : Prop :=
  (State.reset.blk = 0x01#8 ∧ State.reset.nblk = 0xFE#8 ∧ (∀ a, Memory.read State.reset.pay a = none) ∧
    State.reset.chk = none ∧ State.reset.crc = 0x0000#16 ∧ State.reset.filled = false ∧
    State.reset.valid = false ∧ State.reset.err = 0#4 ∧ State.reset.status = 0x00#8) ∧
  ∀ s t : State,
    (exec .sysRst s = .next t ∨ (s.busy = none ∧ (∃ rest, s.inputs = .rst :: rest) ∧ step s = .next t)) →
    t.blk = 0x01#8 ∧ t.nblk = 0xFE#8 ∧ (∀ a, Memory.read t.pay a = none) ∧ t.chk = none ∧ t.crc = 0x0000#16 ∧
    t.filled = false ∧ t.valid = false ∧ t.err = 0#4 ∧ t.status = 0x00#8 ∧ t.tx = s.tx

/-- 70_reset_and_hazards.md R202: a `PKT.FILL` whose source does not answer and a `PKT.EMIT` whose sink does not accept
give no response, and the block is neither faulted nor halted. What the state is meanwhile is the model's choice, log
entry 2. -/
def Obligations.UnansweredOperationsWait : Prop :=
  (∀ s : State, s.err = 0#4 → s.src = [] → exec .pktFill s = .next { s with srcReq := true }) ∧
  (∀ s : State, ∀ (bytes : List Byte) (c : Word), s.err = 0#4 → s.valid = true → payload s = some bytes →
    s.chk = some c → s.sinkReady = false → exec .pktEmit s = .next s)

/-- Exactly one response per command taken (00_scope.md R13): the step that takes a command gives one response and leaves
nothing in progress, or the operation waits and there is no response yet, which only `PKT.FILL` and `PKT.EMIT` do
(41_packet.md R111, 70_reset_and_hazards.md R202). That a waiting command stands in `busy` is the model's choice of log
entry 2. A response with a fault code has `data = 0x0000` (30_encoding.md R67). -/
def Obligations.OneResponsePerCommand : Prop :=
  ∀ (s t : State) (w : Command) (rest : List HostInput),
    s.busy = none → s.inputs = .cmd w :: rest → step s = .next t →
    t.inputs = rest ∧
    ((t.busy = none ∧ ∃ r : Response, t.rsps = s.rsps ++ [r] ∧ (r.err ≠ 0#4 → r.data = 0x0000#16) ∧
        (r.err = t.err ∨ w = 0x020000#24 ∧ r.err = 0#4)) ∨
     (t.busy = some w ∧ t.rsps = s.rsps ∧ (w = 0x210000#24 ∨ w = 0x260000#24)))

/-- 10_state.md R31, 60_exceptions.md R178: `ERR` is written only when it is 0, with a fault's code, and cleared only by
reset, which is the `rst` input or the word of `SYS.RST`. -/
def Obligations.ErrKeepsFirstFault : Prop :=
  ∀ s t : State, step s = .next t →
    t.err = s.err ∨
    (s.err = 0#4 ∧ (t.err = 1#4 ∨ t.err = 2#4 ∨ t.err = 3#4)) ∨
    (t.err = 0#4 ∧
      (s.busy = some 0x010000#24 ∨
       (s.busy = none ∧ ∃ rest, s.inputs = .rst :: rest ∨ s.inputs = .cmd 0x010000#24 :: rest)))

/-- 60_exceptions.md R170, R171: which operation raises which fault and when, for a block that is not halted. -/
def Obligations.FaultConditions : Prop :=
  ∀ (i : Instr) (s t : State), s.err = 0#4 → exec i s = .next t →
    (t.err = 1#4 ↔ (i = .pktEmit ∧ s.valid = false) ∨
      ((i = .pktCsum ∨ (∃ k b, i = .pktPoke k b) ∨ ∃ k, i = .pktPeek k) ∧ s.filled = false)) ∧
    (t.err = 2#4 ↔ i = .pktFill ∧
      ((∃ rest, s.src = .fail :: rest) ∨ ∃ d rest, s.src = .data d false :: rest ∧ d.bytes.length < 128)) ∧
    (t.err = 0#4 ∨ t.err = 1#4 ∨ t.err = 2#4)

/-! ### The system operations -/

/-- 42_system.md R130. It is never refused: the second clause has no hypothesis. It is the only operation that clears
`ERR`. A word with its `op` and nonzero operand bits is reserved: a running block faults on it, a halted one refuses. -/
def Obligations.SysRstResult : Prop :=
  decode 0x010000#24 = .ok .sysRst ∧
  (∀ s : State, exec .sysRst s =
    .next { s with blk := 0x01#8, pay := [], chk := none, crc := 0x0000#16, filled := false, valid := false,
                   err := 0#4, busy := none, rsps := s.rsps ++ [⟨0#4, 0x0000#16⟩] }) ∧
  (∀ (i : Instr) (s t : State), i ≠ .sysRst → s.err ≠ 0#4 → exec i s = .next t → t.err = s.err) ∧
  (∀ (a b : Byte) (s : State), a ≠ 0#8 ∨ b ≠ 0#8 →
    (s.err = 0#4 → dispatch (0x01#8 ++ a ++ b) s =
      .next { s with err := 3#4, busy := none, rsps := s.rsps ++ [⟨3#4, 0x0000#16⟩] }) ∧
    (s.err ≠ 0#4 → dispatch (0x01#8 ++ a ++ b) s =
      .next { s with busy := none, rsps := s.rsps ++ [⟨s.err, 0x0000#16⟩] }))

/-- 42_system.md R131: never refused, `err = 0` always, the data `ERR ‖ 00 ‖ VALID ‖ FILLED` zero-extended; the values
that occur, in states that meet the invariant. -/
def Obligations.SysStatResult : Prop :=
  decode 0x020000#24 = .ok .sysStat ∧
  (∀ s : State, exec .sysStat s =
    .next { s with busy := none,
                   rsps := s.rsps ++ [⟨0#4, 0x00#8 ++ (s.err ++ 0b00#2 ++ BitVec.ofBool s.valid ++
                                              BitVec.ofBool s.filled)⟩] }) ∧
  (∀ s : State, StateInv s →
    (s.err = 0#4 → s.status = 0x00#8 ∨ s.status = 0x01#8 ∨ s.status = 0x03#8) ∧
    (s.err = 1#4 → s.status = 0x10#8 ∨ s.status = 0x11#8) ∧
    (s.err = 2#4 → s.status = 0x20#8) ∧
    (s.err = 3#4 → s.status = 0x30#8 ∨ s.status = 0x31#8 ∨ s.status = 0x33#8) ∧
    (s.err = 0#4 ∨ s.err = 1#4 ∨ s.err = 2#4 ∨ s.err = 3#4))

/-! ### The CRC generator -/

/-- 40_crc.md R86. -/
def Obligations.CrcClrResult : Prop :=
  decode 0x100000#24 = .ok .crcClr ∧
  (∀ s : State, s.err = 0#4 → exec .crcClr s =
    .next { s with crc := 0x0000#16, busy := none, rsps := s.rsps ++ [⟨0#4, 0x0000#16⟩] }) ∧
  (∀ s : State, s.err ≠ 0#4 → exec .crcClr s =
    .next { s with busy := none, rsps := s.rsps ++ [⟨s.err, 0x0000#16⟩] })

/-- 40_crc.md R87, with the byte step of R82 written as the eight steps of `crcShift` on `CRC XOR (b << 8)`. -/
def Obligations.CrcUpdResult : Prop :=
  (∀ b : Byte, decode (0x110000#24 ||| (b.setWidth 24 <<< 8)) = .ok (.crcUpd b)) ∧
  (∀ (b : Byte) (s : State), s.err = 0#4 → exec (.crcUpd b) s =
    .next { s with crc := crcShift^[8] (s.crc ^^^ (b.setWidth 16 <<< 8)), busy := none,
                   rsps := s.rsps ++ [⟨0#4, 0x0000#16⟩] }) ∧
  (∀ (b : Byte) (s : State), s.err ≠ 0#4 → exec (.crcUpd b) s =
    .next { s with busy := none, rsps := s.rsps ++ [⟨s.err, 0x0000#16⟩] })

/-- 40_crc.md R88. -/
def Obligations.CrcRdResult : Prop :=
  decode 0x120000#24 = .ok .crcRd ∧
  (∀ s : State, s.err = 0#4 → exec .crcRd s =
    .next { s with busy := none, rsps := s.rsps ++ [⟨0#4, s.crc⟩] }) ∧
  (∀ s : State, s.err ≠ 0#4 → exec .crcRd s =
    .next { s with busy := none, rsps := s.rsps ++ [⟨s.err, 0x0000#16⟩] })

/-- 40_crc.md R83 (a): the bit-serial shift register computes the byte step, for every accumulator and byte. -/
def Obligations.SerialFormEqualsByteStep : Prop :=
  ∀ (c : Word) (b : Byte), crc16ByteSerial c b = crc16Byte c b

/-- 40_crc.md R83 (b), R95: the table-driven form, over the table as R95 prints it, computes the byte step. -/
def Obligations.TableFormEqualsByteStep : Prop :=
  (∀ j : Byte, crcTableAt j = crc16Byte 0x0000#16 j) ∧
  ∀ (c : Word) (b : Byte), (c <<< 8) ^^^ crcTableAt (c.extractLsb' 8 8 ^^^ b) = crc16Byte c b

/-- 40_crc.md R81 (marked general knowledge by the spec): the CRC of a message is the remainder of the message, followed
by 16 zero bits, divided over GF(2) by `x^16 + x^12 + x^5 + 1`: there is a quotient `q` that leaves it, and it has 16
bits. -/
def Obligations.CrcIsPolynomialRemainder : Prop :=
  ∀ m : List Byte, ∃ q : List Bool, messageNumber m * 65536 = gf2Mul q generator ^^^ (crc16 m).toNat

/-- 40_crc.md R90 (marked derived by the spec): the CRC is linear. -/
def Obligations.CrcIsLinear : Prop :=
  ∀ m n : List Byte, m.length = n.length →
    crc16 (List.zipWith (· ^^^ ·) m n) = crc16 m ^^^ crc16 n

/-- 40_crc.md R91, R93 (marked derived by the spec): leading zeros do not count, and a CRC may be computed in pieces. -/
def Obligations.CrcZerosAndContinuation : Prop :=
  (∀ (k : Nat) (m : List Byte), crc16 (List.replicate k 0x00#8 ++ m) = crc16 m) ∧
  (∀ k : Nat, crc16 (List.replicate k 0x00#8) = 0x0000#16) ∧
  (∀ m n : List Byte, crc16 (m ++ n) = n.foldl crc16Byte (crc16 m))

/-- 40_crc.md R92 (marked derived by the spec): appending the CRC big-endian makes the CRC of the whole zero. -/
def Obligations.CrcResidueIsZero : Prop :=
  ∀ m : List Byte, crc16 (m ++ [(crc16 m).extractLsb' 8 8, (crc16 m).extractLsb' 0 8]) = 0x0000#16

/-- 00_scope.md R18, 20_memory.md R46: `swap16` exchanges the two bytes of a 16-bit value and is its own inverse; and the
bytes `v[15:8]`, `v[7:0]` read as a big-endian number give `v` (the arithmetic behind R47; `EmittedFramesAreSound` says
it of the frame and `CHK`). -/
def Obligations.SwapAndByteOrder : Prop :=
  ∀ v : Word, hiByte (swap16 v) = loByte v ∧ loByte (swap16 v) = hiByte v ∧ swap16 (swap16 v) = v ∧
    (hiByte v).toNat * 256 + (loByte v).toNat = v.toNat

/-! ### The packet framer -/

/-- 41_packet.md R104. -/
def Obligations.PktInitResult : Prop :=
  (∀ n : Byte, decode (0x200000#24 ||| (n.setWidth 24 <<< 8)) = .ok (.pktInit n)) ∧
  (∀ (n : Byte) (s : State), s.err = 0#4 → exec (.pktInit n) s =
    .next { s with blk := n, filled := false, pay := [], valid := false, chk := none, busy := none,
                   rsps := s.rsps ++ [⟨0#4, 0x0000#16⟩] }) ∧
  (∀ (n : Byte) (s : State), s.err ≠ 0#4 → exec (.pktInit n) s =
    .next { s with busy := none, rsps := s.rsps ++ [⟨s.err, 0x0000#16⟩] })

/-- 41_packet.md R106, R107, R108: a full read, or a short read at the confirmed end of the source, loads the payload:
byte `k` is source byte `k`, or the fill byte where the source gave none; the response is the count. -/
def Obligations.PktFillLoadsPayload : Prop :=
  decode 0x210000#24 = .ok .pktFill ∧
  ∀ (s : State) (d : SrcBytes) (eos : Bool) (rest : List SrcResponse),
    s.err = 0#4 → s.src = .data d eos :: rest → (d.bytes.length = 128 ∨ eos = true) →
    ∃ t, exec .pktFill s = .next t ∧
      (∀ k, k < 128 → Memory.read t.pay k = some (d.bytes.getD k 0xFF#8)) ∧
      (∀ k, 128 ≤ k → Memory.read t.pay k = none) ∧
      t = { s with pay := t.pay, filled := true, valid := false, chk := none, src := rest, srcReq := false,
                   busy := none, rsps := s.rsps ++ [⟨0#4, BitVec.ofNat 16 d.bytes.length⟩] }

/-- 41_packet.md R109, R110: a transient short read, no byte at all included, and a source failure raise `FileReadError`
and leave the packet empty; the bytes delivered are dropped and `BLK` keeps its value. Also R175: a halted block refuses
and does not touch the source. -/
def Obligations.PktFillFaults : Prop :=
  (∀ (s : State) (r : SrcResponse) (rest : List SrcResponse),
    s.err = 0#4 → s.src = r :: rest →
    (r = .fail ∨ ∃ d : SrcBytes, r = .data d false ∧ d.bytes.length < 128) →
    exec .pktFill s =
      .next { s with pay := [], filled := false, valid := false, chk := none, err := 2#4, src := rest,
                     srcReq := false, busy := none, rsps := s.rsps ++ [⟨2#4, 0x0000#16⟩] }) ∧
  (∀ s : State, s.err ≠ 0#4 → exec .pktFill s =
    .next { s with busy := none, rsps := s.rsps ++ [⟨s.err, 0x0000#16⟩] })

/-- 41_packet.md R112: byte `i` is written and no other, `VALID` is cleared whatever byte is written, `FILLED = 0`
raises `IllegalState`, an index with bit 7 set is `IllegalCommand` at decode, and a halted block refuses. -/
def Obligations.PktPokeResult : Prop :=
  (∀ (i : BitVec 7) (b : Byte),
    decode (0x220000#24 ||| (i.setWidth 24 <<< 8) ||| b.setWidth 24) = .ok (.pktPoke i b)) ∧
  (∀ a b : Byte, a.msb = true → decode (0x22#8 ++ a ++ b) = .error .indexRange) ∧
  (∀ (i : BitVec 7) (b : Byte) (s : State), s.err = 0#4 → s.filled = true →
    ∃ t, exec (.pktPoke i b) s = .next t ∧
      Memory.read t.pay i.toNat = some b ∧
      (∀ a, a ≠ i.toNat → Memory.read t.pay a = Memory.read s.pay a) ∧
      t = { s with pay := t.pay, valid := false, chk := none, busy := none,
                   rsps := s.rsps ++ [⟨0#4, 0x0000#16⟩] }) ∧
  (∀ (i : BitVec 7) (b : Byte) (s : State), s.err = 0#4 → s.filled = false → exec (.pktPoke i b) s =
    .next { s with err := 1#4, busy := none, rsps := s.rsps ++ [⟨1#4, 0x0000#16⟩] }) ∧
  (∀ (i : BitVec 7) (b : Byte) (s : State), s.err ≠ 0#4 → exec (.pktPoke i b) s =
    .next { s with busy := none, rsps := s.rsps ++ [⟨s.err, 0x0000#16⟩] })

/-- 41_packet.md R114: byte `i` is returned zero-extended and nothing is written; `FILLED = 0` raises `IllegalState`; an
index with bit 7 set or a nonzero `b` is `IllegalCommand` at decode; a halted block refuses. -/
def Obligations.PktPeekResult : Prop :=
  (∀ i : BitVec 7, decode (0x230000#24 ||| (i.setWidth 24 <<< 8)) = .ok (.pktPeek i)) ∧
  (∀ a b : Byte, a.msb = true ∨ b ≠ 0#8 → ∃ r, decode (0x23#8 ++ a ++ b) = .error r) ∧
  (∀ (i : BitVec 7) (b : Byte) (s : State), s.err = 0#4 → s.filled = true →
    Memory.read s.pay i.toNat = some b → exec (.pktPeek i) s =
    .next { s with busy := none, rsps := s.rsps ++ [⟨0#4, 0x00#8 ++ b⟩] }) ∧
  (∀ (i : BitVec 7) (s : State), s.err = 0#4 → s.filled = false → exec (.pktPeek i) s =
    .next { s with err := 1#4, busy := none, rsps := s.rsps ++ [⟨1#4, 0x0000#16⟩] }) ∧
  (∀ (i : BitVec 7) (s : State), s.err ≠ 0#4 → exec (.pktPeek i) s =
    .next { s with busy := none, rsps := s.rsps ++ [⟨s.err, 0x0000#16⟩] })

/-- 41_packet.md R116: the accumulator restarts from `0x0000`, goes over the 128 payload bytes in index order and is left
equal to the new `CHK`, which is returned; `FILLED = 0` raises `IllegalState`; a halted block refuses. -/
def Obligations.PktCsumResult : Prop :=
  decode 0x240000#24 = .ok .pktCsum ∧
  (∀ (s : State) (bytes : List Byte), s.err = 0#4 → s.filled = true → bytes.length = 128 →
    (∀ k, k < 128 → Memory.read s.pay k = bytes[k]?) → exec .pktCsum s =
    .next { s with crc := bytes.foldl crc16Byte 0x0000#16, chk := some (bytes.foldl crc16Byte 0x0000#16),
                   valid := true, busy := none,
                   rsps := s.rsps ++ [⟨0#4, bytes.foldl crc16Byte 0x0000#16⟩] }) ∧
  (∀ s : State, s.err = 0#4 → s.filled = false → exec .pktCsum s =
    .next { s with err := 1#4, busy := none, rsps := s.rsps ++ [⟨1#4, 0x0000#16⟩] }) ∧
  (∀ s : State, s.err ≠ 0#4 → exec .pktCsum s =
    .next { s with busy := none, rsps := s.rsps ++ [⟨s.err, 0x0000#16⟩] })

/-- 41_packet.md R118: the block number steps by one modulo 256 and is returned, and the packet is emptied. -/
def Obligations.PktNextResult : Prop :=
  decode 0x250000#24 = .ok .pktNext ∧
  (∀ s : State, s.err = 0#4 →
    ∃ n : Byte, n.toNat = (s.blk.toNat + 1) % 256 ∧ exec .pktNext s =
    .next { s with blk := n, filled := false, pay := [], valid := false, chk := none, busy := none,
                   rsps := s.rsps ++ [⟨0#4, 0x00#8 ++ n⟩] }) ∧
  (∀ s : State, s.err ≠ 0#4 → exec .pktNext s =
    .next { s with busy := none, rsps := s.rsps ++ [⟨s.err, 0x0000#16⟩] })

/-- 41_packet.md R120: the frame `SOH ‖ BLK ‖ BLK XOR 0xFF ‖ PAY ‖ CHK[15:8] ‖ CHK[7:0]` is appended to TX and nothing
else changes; `VALID = 0` raises `IllegalState` and a halted block refuses, and then nothing is appended. -/
def Obligations.PktEmitResult : Prop :=
  decode 0x260000#24 = .ok .pktEmit ∧
  (∀ (s : State) (bytes : List Byte) (c : Word), s.err = 0#4 → s.valid = true → s.sinkReady = true →
    bytes.length = 128 → (∀ k, k < 128 → Memory.read s.pay k = bytes[k]?) → s.chk = some c →
    exec .pktEmit s =
    .next { s with tx := s.tx ++ ([0x01#8, s.blk, s.blk ^^^ 0xFF#8] ++ bytes ++
                                  [c.extractLsb' 8 8, c.extractLsb' 0 8]),
                   busy := none, rsps := s.rsps ++ [⟨0#4, 0x0000#16⟩] }) ∧
  (∀ s : State, s.err = 0#4 → s.valid = false → exec .pktEmit s =
    .next { s with err := 1#4, busy := none, rsps := s.rsps ++ [⟨1#4, 0x0000#16⟩] }) ∧
  (∀ s : State, s.err ≠ 0#4 → exec .pktEmit s =
    .next { s with busy := none, rsps := s.rsps ++ [⟨s.err, 0x0000#16⟩] })

/-- 41_packet.md R121: with `VALID = 0`, `PKT.EMIT` raises `IllegalState` and emits nothing; so it does after any
operation that writes or discards the payload, with no `PKT.CSUM` since, and in the reset state. -/
def Obligations.StaleChecksumIsNeverEmitted : Prop :=
  (∀ s : State, s.err = 0#4 → s.valid = false → exec .pktEmit s =
    .next { s with err := 1#4, busy := none, rsps := s.rsps ++ [⟨1#4, 0x0000#16⟩] }) ∧
  (∀ (i : Instr) (s t : State),
    (i = .pktFill ∨ i = .pktNext ∨ (∃ n, i = .pktInit n) ∨ (∃ k b, i = .pktPoke k b) ∨ i = .sysRst) →
    exec i s = .next t → (i = .pktFill → s.src ≠ []) → t.busy = none → t.err = 0#4 →
    exec .pktEmit t = .next { t with err := 1#4, rsps := t.rsps ++ [⟨1#4, 0x0000#16⟩] }) ∧
  exec .pktEmit State.reset =
    .next { State.reset with err := 1#4, rsps := State.reset.rsps ++ [⟨1#4, 0x0000#16⟩] }

/-- 41_packet.md R122: a `PKT.EMIT` that appended a frame may be repeated, and appends the same 133 bytes again; it
changes no state of the block; no step changes what is already in the TX stream. -/
def Obligations.RepeatedEmitSendsSameFrame : Prop :=
  (∀ s t : State, exec .pktEmit s = .next t → t.tx ≠ s.tx →
    ∃ f u, f.length = 133 ∧ t.tx = s.tx ++ f ∧ exec .pktEmit t = .next u ∧ u.tx = s.tx ++ f ++ f ∧
      u.blk = s.blk ∧ u.pay = s.pay ∧ u.chk = s.chk ∧ u.crc = s.crc ∧ u.filled = s.filled ∧
      u.valid = s.valid ∧ u.err = s.err) ∧
  ∀ s t : State, step s = .next t → ∃ f, t.tx = s.tx ++ f

/-- 41_packet.md R103: the frame appended is a function of `BLK` and `PAY` alone: two states that meet the invariant and
agree on them emit the same bytes, whatever else differs. -/
def Obligations.FrameDependsOnBlkAndPayOnly : Prop :=
  ∀ (s s' t t' : State), StateInv s → StateInv s' → s.blk = s'.blk → s.pay = s'.pay →
    exec .pktEmit s = .next t → exec .pktEmit s' = .next t' → t.tx ≠ s.tx → t'.tx ≠ s'.tx →
    ∃ f, t.tx = s.tx ++ f ∧ t'.tx = s'.tx ++ f

/-- 30_encoding.md R62 (marked derived by the spec): the properties (a) to (e) of every emitted frame. -/
def Obligations.EmittedFramesAreSound : Prop :=
  ∀ s t : State, StateInv s → exec .pktEmit s = .next t → t.tx ≠ s.tx →
    ∃ f, t.tx = s.tx ++ f ∧ f.length = 133 ∧ f[0]? = some 0x01#8 ∧
      f[1]? = some s.blk ∧ f[2]? = some s.nblk ∧ s.blk ^^^ s.nblk = 0xFF#8 ∧
      s.blk.toNat + s.nblk.toNat = 255 ∧
      (∀ k, k < 128 → f[3 + k]? = Memory.read s.pay k) ∧
      (∃ hi lo : Byte, f[131]? = some hi ∧ f[132]? = some lo ∧
        (crc16 ((f.drop 3).take 128)).toNat = hi.toNat * 256 + lo.toNat) ∧
      crc16 (f.drop 3) = 0x0000#16

/-- 40_crc.md R94, 20_memory.md R52 (marked derived by the spec): changing a byte, recomputing, changing it back and
recomputing gives the original checksum, whatever `CRC` and `CHK` held before. -/
def Obligations.RecomputedChecksumRoundTrips : Prop :=
  ∀ (s s1 s2 s3 s4 : State) (i : BitVec 7) (v w : Byte) (c : Word),
    StateInv s → s.err = 0#4 → s.valid = true → s.chk = some c → Memory.read s.pay i.toNat = some v →
    exec (.pktPoke i w) s = .next s1 → exec .pktCsum s1 = .next s2 →
    exec (.pktPoke i v) s2 = .next s3 → exec .pktCsum s3 = .next s4 →
    s4.chk = some c ∧ s4.crc = c ∧ s4.valid = true ∧ ∀ a, Memory.read s4.pay a = Memory.read s.pay a

/-! ### The whole machine -/

/-- The access matrix of 10_state.md R32 (marked derived by the spec): what no operation but the ones named writes, and
what crosses the ports. Memory is compared byte by byte. -/
def Obligations.AccessMatrix : Prop :=
  ∀ (i : Instr) (s t : State), exec i s = .next t →
    (i.op ∉ [.sysRst, .pktInit, .pktNext] → t.blk = s.blk) ∧
    (i.op ∉ [.sysRst, .pktInit, .pktFill, .pktPoke, .pktNext] →
      ∀ a, Memory.read t.pay a = Memory.read s.pay a) ∧
    (∀ k b, i = .pktPoke k b → ∀ a, a ≠ k.toNat → Memory.read t.pay a = Memory.read s.pay a) ∧
    (i.op ∉ [.sysRst, .pktInit, .pktFill, .pktPoke, .pktCsum, .pktNext] → t.chk = s.chk) ∧
    (i.op ∉ [.sysRst, .crcClr, .crcUpd, .pktCsum] → t.crc = s.crc) ∧
    (i.op ∉ [.sysRst, .pktInit, .pktFill, .pktNext] → t.filled = s.filled) ∧
    (i.op ∉ [.sysRst, .pktInit, .pktFill, .pktPoke, .pktCsum, .pktNext] → t.valid = s.valid) ∧
    (i.op ∉ [.sysRst, .pktFill, .pktPoke, .pktPeek, .pktCsum, .pktEmit] → t.err = s.err) ∧
    (i.op ≠ .pktFill → t.src = s.src ∧ t.srcReq = s.srcReq) ∧
    (i.op ≠ .pktEmit → t.tx = s.tx) ∧
    t.inputs = s.inputs ∧ t.sinkReady = s.sinkReady

/-- The lifecycle table of 41_packet.md R100, for the operations that end: a `PKT.FILL` whose source does not answer is
not among them. -/
def Obligations.LifecycleTableHolds : Prop :=
  ∀ (i : Instr) (s t : State), StateInv s → exec i s = .next t →
    (i = .pktFill → s.err = 0#4 → s.src ≠ []) →
    t.lifecycle = lifecycleTable s.lifecycle i (s.src.head?.any SrcResponse.good)

/-- 20_memory.md R43, R51: a step appends to TX nothing, or exactly one whole frame of 133 bytes, and then the command it
executes is `PKT.EMIT`; no byte already there changes. -/
def Obligations.TxGrowsByWholeFrames : Prop :=
  ∀ s t : State, step s = .next t → t.tx ≠ s.tx →
    ∃ f, t.tx = s.tx ++ f ∧ f.length = 133 ∧
      (s.busy = some 0x260000#24 ∨
       (s.busy = none ∧ ∃ rest, s.inputs = .cmd 0x260000#24 :: rest))

/-- The reset state meets the invariant (10_state.md R29, R36). -/
def Obligations.ResetMeetsInvariant : Prop := StateInv State.reset

/-- Every step keeps the invariant, from every state that meets it: the memory's canonical form, `PAY` and `FILLED`,
`CHK` and `VALID` (10_state.md R23, R24, R27, R28), `VALID` implies `FILLED` (R29), the values of `ERR` and `STATUS`
(60_exceptions.md R171, 42_system.md R131), and which commands can be left in progress (the model's ports, log entries 2
and 3). -/
def Obligations.StepKeepsInvariant : Prop :=
  ∀ s t : State, StateInv s → step s = .next t → StateInv t

/-- 00_scope.md R19, 41_packet.md R101: from a state that meets the invariant every step has a next state; no operation
reads `NOVAL`, so the model's own stop is never reached. -/
def Obligations.StepAlwaysHasNext : Prop := ∀ s : State, StateInv s → ∃ t, step s = .next t

/-- 70_reset_and_hazards.md R202, R205: when the source answers and the sink accepts, the command at the head of the
host's inputs has its response after one step. -/
def Obligations.CommandsAreAnswered : Prop :=
  ∀ (s : State) (w : Command) (rest : List HostInput), StateInv s → s.busy = none → s.inputs = .cmd w :: rest →
    s.src ≠ [] → s.sinkReady = true →
    ∃ t r, step s = .next t ∧ t.busy = none ∧ t.inputs = rest ∧ t.rsps = s.rsps ++ [r]

/-- 41_packet.md R124 (marked derived by the spec): a host that issues the canonical order of R102 for every chunk of an
image, over a source that delivers the image in order, makes the block emit one frame for each chunk: block numbers
consecutive modulo 256, each chunk's bytes padded with `0xFF`, each with the CRC of its 128 bytes. For every image, from
every state where the block is ready; with `BLK = 1` these are the frames of R124. That the host's commands and the
source's answers are listed in advance and the sink accepts throughout is the model's choice of log entry 11. -/
def Obligations.ImageIsEmittedFrameByFrame : Prop :=
  ∀ (s : State) (m : List Byte) (e : Nat → Bool) (more : List HostInput) (rest : List SrcResponse),
    s.err = 0#4 → s.busy = none → s.sinkReady = true →
    s.inputs = imageCommands (packetCount m.length) ++ more →
    s.src = imageAnswers m e ++ rest →
    ∃ t, stepN (4 * packetCount m.length) s = .next t ∧
      t.tx = s.tx ++ imageFrames s.blk m ∧ t.blk = s.blk + BitVec.ofNat 8 (packetCount m.length) ∧
      t.inputs = more ∧ t.src = rest ∧ t.err = 0#4 ∧ t.busy = none
end

