-- ==== Sys2Proof/Laws/Crc.lean ====
section
/-! SUPPORT. The small laws of the CRC generator's definitions (40_crc.md R82, R84) and of the numbers that R81 is
stated with. -/

namespace Sys2Proof.Machine

theorem crcShifts_zero (c : Word) : crcShifts 0 c = c := rfl

theorem crcShifts_succ (n : Nat) (c : Word) : crcShifts (n + 1) c = crcShifts n (crcShift c) := rfl

theorem crc16_nil : crc16 [] = 0x0000#16 := rfl

theorem evaluated_eq {α : Type} (c : Word) (f : Word → α) : evaluated c f = f c := by
  unfold evaluated
  split
  · next h => rw [BitVec.eq_of_toNat_eq (x := c) (y := 0x0000#16) (by simpa using h)]
  · next n h => rw [show n + 1 = c.toNat from h.symm, BitVec.ofNat_toNat, BitVec.setWidth_eq]

theorem crc16From_cons (c : Word) (b : Byte) (m : List Byte) :
    crc16From c (b :: m) = crc16From (crc16Byte c b) m := evaluated_eq _ _

/-- The CRC of a sequence is the byte step applied to each byte in order. -/
theorem crc16From_eq_foldl (c : Word) (m : List Byte) : crc16From c m = m.foldl crc16Byte c := by
  induction m generalizing c with
  | nil => rfl
  | cons b m ih => rw [crc16From_cons, ih, List.foldl_cons]

theorem crc16_eq_foldl (m : List Byte) : crc16 m = m.foldl crc16Byte 0x0000#16 := crc16From_eq_foldl _ m

theorem crc16_snoc (m : List Byte) (b : Byte) : crc16 (m ++ [b]) = crc16Byte (crc16 m) b := by
  simp [crc16_eq_foldl]

theorem messageNumber_snoc (m : List Byte) (b : Byte) :
    messageNumber (m ++ [b]) = messageNumber m * 256 + b.toNat := by
  simp [messageNumber]

theorem gf2Mul_snoc (q : List Bool) (bit : Bool) (p : Nat) :
    gf2Mul (q ++ [bit]) p = (gf2Mul q p * 2) ^^^ (if bit then p else 0) := by
  simp [gf2Mul]

/-- A shift splits over XOR. -/
theorem crcShift_xor (a b : Word) : crcShift (a ^^^ b) = crcShift a ^^^ crcShift b := by
  have key : ∀ x y p : Word, x ^^^ p ^^^ (y ^^^ p) = x ^^^ y := by
    intro x y p
    rw [BitVec.xor_assoc, ← BitVec.xor_assoc p, BitVec.xor_comm p y, BitVec.xor_assoc y, BitVec.xor_self,
      BitVec.xor_zero]
  unfold crcShift
  rw [BitVec.getLsbD_xor, BitVec.shiftLeft_xor_distrib]
  cases a.getLsbD 15 <;> cases b.getLsbD 15 <;> simp [key]
  · ac_rfl
  · ac_rfl

/-- So do several shifts. -/
theorem crcShifts_xor (n : Nat) (a b : Word) :
    crcShifts n (a ^^^ b) = crcShifts n a ^^^ crcShifts n b := by
  induction n generalizing a b with
  | zero => rfl
  | succ n ih => simp only [crcShifts, crcShift_xor, ih]

end Sys2Proof.Machine
end

