-- ==== Sys2Proof/Laws/PerInstr.lean ====
section
/-! SUPPORT. For each operation: its words stand in its own row of the opcode map (30_encoding.md R68) and their fields
fit its form (R66). -/

/-- The byte `0 ‖ i` of an index has bit 7 clear (R66). -/
theorem Sys2Proof.Laws.index_msb (i : BitVec 7) : (0#1 ++ i : Sys2Proof.Byte).msb = false := by
  rw [BitVec.msb_eq_getLsbD_last, BitVec.getLsbD_append]
  simp

namespace Sys2Proof.Laws.EncodesInRow

/-- The word of the instruction agrees with `match` under `mask` of its row, and its fields fit its form. -/
def Statement (i : Instr) : Prop :=
  encode i &&& i.op.maskBits = i.op.matchBits ∧ i.raw.fits i.op.form = true

theorem sysRst : Statement .sysRst := ⟨by decide, by decide⟩

theorem sysStat : Statement .sysStat := ⟨by decide, by decide⟩

theorem crcClr : Statement .crcClr := ⟨by decide, by decide⟩

theorem crcUpd (b : Byte) : Statement (.crcUpd b) := by
  refine ⟨?_, rfl⟩
  apply BitVec.eq_of_getLsbD_eq
  intro j hj
  simp only [encode, Instr.raw, RawCommand.toWord, Instr.op, Op.code, Instr.operandA, Instr.operandB,
    Op.maskBits, Op.matchBits, BitVec.getLsbD_and, BitVec.getLsbD_append]
  interval_cases j <;> simp

theorem crcRd : Statement .crcRd := ⟨by decide, by decide⟩

theorem pktInit (n : Byte) : Statement (.pktInit n) := by
  refine ⟨?_, rfl⟩
  apply BitVec.eq_of_getLsbD_eq
  intro j hj
  simp only [encode, Instr.raw, RawCommand.toWord, Instr.op, Op.code, Instr.operandA, Instr.operandB,
    Op.maskBits, Op.matchBits, BitVec.getLsbD_and, BitVec.getLsbD_append]
  interval_cases j <;> simp

theorem pktFill : Statement .pktFill := ⟨by decide, by decide⟩

theorem pktPoke (i : BitVec 7) (b : Byte) : Statement (.pktPoke i b) := by
  refine ⟨?_, ?_⟩
  · apply BitVec.eq_of_getLsbD_eq
    intro j hj
    simp only [encode, Instr.raw, RawCommand.toWord, Instr.op, Op.code, Instr.operandA, Instr.operandB,
      Op.maskBits, Op.matchBits, BitVec.getLsbD_and, BitVec.getLsbD_append]
    interval_cases j <;> simp
  · simp [RawCommand.fits, Instr.raw, Instr.op, Op.form, Instr.operandA, index_msb]

theorem pktPeek (i : BitVec 7) : Statement (.pktPeek i) := by
  refine ⟨?_, ?_⟩
  · apply BitVec.eq_of_getLsbD_eq
    intro j hj
    simp only [encode, Instr.raw, RawCommand.toWord, Instr.op, Op.code, Instr.operandA, Instr.operandB,
      Op.maskBits, Op.matchBits, BitVec.getLsbD_and, BitVec.getLsbD_append]
    interval_cases j <;> simp
  · simp [RawCommand.fits, Instr.raw, Instr.op, Op.form, Instr.operandA, Instr.operandB, index_msb]

theorem pktCsum : Statement .pktCsum := ⟨by decide, by decide⟩

theorem pktNext : Statement .pktNext := ⟨by decide, by decide⟩

theorem pktEmit : Statement .pktEmit := ⟨by decide, by decide⟩

end Sys2Proof.Laws.EncodesInRow
end

