-- ==== Sys2Proof/Laws/Decode.lean ====
section
/-! SUPPORT. A command word and its three fields (30_encoding.md R65), and the rows of the opcode map read field by field
(R66, R68). -/

namespace Sys2Proof

/-- The fields of the word made of three fields are those fields. -/
theorem RawCommand.ofWord_toWord (c : RawCommand) : RawCommand.ofWord c.toWord = c := by
  obtain ⟨x, a, b⟩ := c
  simp only [RawCommand.ofWord, RawCommand.toWord, RawCommand.mk.injEq, Command.fieldOp, Command.fieldA,
    Command.fieldB]
  refine ⟨?_, ?_, ?_⟩ <;> apply BitVec.eq_of_getLsbD_eq <;> intro j hj <;>
    simp only [BitVec.getLsbD_extractLsb', BitVec.getLsbD_append] <;> interval_cases j <;> simp

/-- The word made of a word's three fields is that word. -/
theorem RawCommand.toWord_ofWord (w : Command) : (RawCommand.ofWord w).toWord = w := by
  simp only [RawCommand.ofWord, RawCommand.toWord, Command.fieldOp, Command.fieldA, Command.fieldB]
  apply BitVec.eq_of_getLsbD_eq
  intro j hj
  simp only [BitVec.getLsbD_append, BitVec.getLsbD_extractLsb']
  interval_cases j <;> simp

/-- Bits 23:16, 15:8 and 7:0 of a word written as three bytes are those bytes. -/
theorem fields_of_append (x a b : Byte) :
    (x ++ a ++ b : Command).extractLsb' 16 8 = x ∧ (x ++ a ++ b : Command).extractLsb' 8 8 = a ∧
      (x ++ a ++ b : Command).extractLsb' 0 8 = b := by
  have h := RawCommand.ofWord_toWord ⟨x, a, b⟩
  exact ⟨congrArg RawCommand.op h, congrArg RawCommand.a h, congrArg RawCommand.b h⟩

/-- Masking three bytes and comparing with three bytes is done byte by byte. -/
theorem and_append_eq_iff (x a b m1 m2 m3 v1 v2 v3 : Byte) :
    ((x ++ a ++ b : Command) &&& (m1 ++ m2 ++ m3)) = v1 ++ v2 ++ v3 ↔
      x &&& m1 = v1 ∧ a &&& m2 = v2 ∧ b &&& m3 = v3 := by
  have key : ((x ++ a ++ b : Command) &&& (m1 ++ m2 ++ m3)) = (x &&& m1) ++ (a &&& m2) ++ (b &&& m3) := by
    apply BitVec.eq_of_getLsbD_eq
    intro j hj
    simp only [BitVec.getLsbD_and, BitVec.getLsbD_append]
    interval_cases j <;> simp
  rw [key]
  constructor
  · intro h
    have hl := fields_of_append (x &&& m1) (a &&& m2) (b &&& m3)
    have hr := fields_of_append v1 v2 v3
    rw [h] at hl
    exact ⟨hl.1.symm.trans hr.1, hl.2.1.symm.trans hr.2.1, hl.2.2.symm.trans hr.2.2⟩
  · rintro ⟨rfl, rfl, rfl⟩
    rfl

/-- The operand bytes of a form's mask: ones where the form wants zeros. -/
def Form.maskAB : Form → Byte × Byte
  | .none => (0xFF#8, 0xFF#8)
  | .a8 => (0x00#8, 0xFF#8)
  | .idx => (0x80#8, 0xFF#8)
  | .idxB8 => (0x80#8, 0x00#8)

/-- The masks of R68 follow from the forms. -/
theorem Op.maskBits_eq (o : Op) : o.maskBits = 0xFF#8 ++ o.form.maskAB.1 ++ o.form.maskAB.2 := by
  cases o <;> decide

/-- The column `match` of R68 is the opcode over zeros. -/
theorem Op.matchBits_eq (o : Op) : o.matchBits = o.code ++ 0#8 ++ 0#8 := by
  cases o <;> decide

/-- A word selects a row exactly when it has the row's opcode and its operand fields fit the row's form. -/
theorem Op.selects_iff (o : Op) (c : RawCommand) :
    o.selects c.toWord = true ↔ c.op = o.code ∧ c.fits o.form = true := by
  obtain ⟨x, a, b⟩ := c
  have hf : ∀ y : Byte, y &&& 0xFF#8 = y := by decide
  have hz : ∀ y : Byte, y &&& 0x00#8 = 0#8 := by decide
  have hm : ∀ y : Byte, (y &&& 0x80#8 = 0#8) ↔ y.msb = false := by decide
  simp only [Op.selects, RawCommand.toWord, beq_iff_eq]
  rw [o.maskBits_eq, o.matchBits_eq, and_append_eq_iff, hf]
  cases o.form <;> simp [RawCommand.fits, Form.maskAB, hf, hz, hm]

/-- No two operations share an opcode. -/
theorem Op.code_injective {o p : Op} (h : o.code = p.code) : o = p := by
  cases o <;> cases p <;> first | rfl | exact absurd h (by decide)

/-- The opcode of an operation names it. -/
theorem Op.ofCode_code (o : Op) : Op.ofCode? o.code = some o := by cases o <;> decide

/-- `0 ‖ w[14:8]` is field `a` when its bit 7 is clear. -/
theorem Command.index_of_fieldA {w : Command} (h : (Command.fieldA w).msb = false) :
    0#1 ++ Command.fieldIndex w = Command.fieldA w := by
  apply BitVec.eq_of_getLsbD_eq
  intro k hk
  simp only [Command.fieldA, Command.fieldIndex, BitVec.getLsbD_extractLsb', BitVec.getLsbD_append,
    BitVec.msb_eq_getLsbD_last] at h ⊢
  simp at h
  interval_cases k <;> simp
  exact h

end Sys2Proof
end

