-- ==== Sys2Proof/Laws/State.lean ====
section
/-! SUPPORT. One lemma for each field of the state and each shared update, true by rfl: no later proof unfolds a record
update. -/

namespace Sys2Proof.Machine

variable (s : State)

@[simp] theorem respond_blk (v : Word) : (respond v s).blk = s.blk := rfl
@[simp] theorem respond_pay (v : Word) : (respond v s).pay = s.pay := rfl
@[simp] theorem respond_chk (v : Word) : (respond v s).chk = s.chk := rfl
@[simp] theorem respond_crc (v : Word) : (respond v s).crc = s.crc := rfl
@[simp] theorem respond_filled (v : Word) : (respond v s).filled = s.filled := rfl
@[simp] theorem respond_valid (v : Word) : (respond v s).valid = s.valid := rfl
@[simp] theorem respond_err (v : Word) : (respond v s).err = s.err := rfl
@[simp] theorem respond_inputs (v : Word) : (respond v s).inputs = s.inputs := rfl
@[simp] theorem respond_busy (v : Word) : (respond v s).busy = none := rfl
@[simp] theorem respond_src (v : Word) : (respond v s).src = s.src := rfl
@[simp] theorem respond_srcReq (v : Word) : (respond v s).srcReq = s.srcReq := rfl
@[simp] theorem respond_sinkReady (v : Word) : (respond v s).sinkReady = s.sinkReady := rfl
@[simp] theorem respond_rsps (v : Word) : (respond v s).rsps = s.rsps ++ [{ err := 0#4, data := v }] := rfl
@[simp] theorem respond_tx (v : Word) : (respond v s).tx = s.tx := rfl

@[simp] theorem raise_blk (f : BlockFault) : (raise f s).blk = s.blk := rfl
@[simp] theorem raise_pay (f : BlockFault) : (raise f s).pay = s.pay := rfl
@[simp] theorem raise_chk (f : BlockFault) : (raise f s).chk = s.chk := rfl
@[simp] theorem raise_crc (f : BlockFault) : (raise f s).crc = s.crc := rfl
@[simp] theorem raise_filled (f : BlockFault) : (raise f s).filled = s.filled := rfl
@[simp] theorem raise_valid (f : BlockFault) : (raise f s).valid = s.valid := rfl
@[simp] theorem raise_err (f : BlockFault) : (raise f s).err = f.code := rfl
@[simp] theorem raise_inputs (f : BlockFault) : (raise f s).inputs = s.inputs := rfl
@[simp] theorem raise_busy (f : BlockFault) : (raise f s).busy = none := rfl
@[simp] theorem raise_src (f : BlockFault) : (raise f s).src = s.src := rfl
@[simp] theorem raise_srcReq (f : BlockFault) : (raise f s).srcReq = s.srcReq := rfl
@[simp] theorem raise_sinkReady (f : BlockFault) : (raise f s).sinkReady = s.sinkReady := rfl
@[simp] theorem raise_rsps (f : BlockFault) : (raise f s).rsps = s.rsps ++ [{ err := f.code, data := 0x0000#16 }] := rfl
@[simp] theorem raise_tx (f : BlockFault) : (raise f s).tx = s.tx := rfl

@[simp] theorem refuse_blk : (refuse s).blk = s.blk := rfl
@[simp] theorem refuse_pay : (refuse s).pay = s.pay := rfl
@[simp] theorem refuse_chk : (refuse s).chk = s.chk := rfl
@[simp] theorem refuse_crc : (refuse s).crc = s.crc := rfl
@[simp] theorem refuse_filled : (refuse s).filled = s.filled := rfl
@[simp] theorem refuse_valid : (refuse s).valid = s.valid := rfl
@[simp] theorem refuse_err : (refuse s).err = s.err := rfl
@[simp] theorem refuse_inputs : (refuse s).inputs = s.inputs := rfl
@[simp] theorem refuse_busy : (refuse s).busy = none := rfl
@[simp] theorem refuse_src : (refuse s).src = s.src := rfl
@[simp] theorem refuse_srcReq : (refuse s).srcReq = s.srcReq := rfl
@[simp] theorem refuse_sinkReady : (refuse s).sinkReady = s.sinkReady := rfl
@[simp] theorem refuse_rsps : (refuse s).rsps = s.rsps ++ [{ err := s.err, data := 0x0000#16 }] := rfl
@[simp] theorem refuse_tx : (refuse s).tx = s.tx := rfl

@[simp] theorem emptyPacket_blk : (emptyPacket s).blk = s.blk := rfl
@[simp] theorem emptyPacket_pay : (emptyPacket s).pay = [] := rfl
@[simp] theorem emptyPacket_chk : (emptyPacket s).chk = none := rfl
@[simp] theorem emptyPacket_crc : (emptyPacket s).crc = s.crc := rfl
@[simp] theorem emptyPacket_filled : (emptyPacket s).filled = false := rfl
@[simp] theorem emptyPacket_valid : (emptyPacket s).valid = false := rfl
@[simp] theorem emptyPacket_err : (emptyPacket s).err = s.err := rfl
@[simp] theorem emptyPacket_inputs : (emptyPacket s).inputs = s.inputs := rfl
@[simp] theorem emptyPacket_busy : (emptyPacket s).busy = s.busy := rfl
@[simp] theorem emptyPacket_src : (emptyPacket s).src = s.src := rfl
@[simp] theorem emptyPacket_srcReq : (emptyPacket s).srcReq = s.srcReq := rfl
@[simp] theorem emptyPacket_sinkReady : (emptyPacket s).sinkReady = s.sinkReady := rfl
@[simp] theorem emptyPacket_rsps : (emptyPacket s).rsps = s.rsps := rfl
@[simp] theorem emptyPacket_tx : (emptyPacket s).tx = s.tx := rfl

@[simp] theorem loadPacket_blk (l : List Byte) : (loadPacket l s).blk = s.blk := rfl
@[simp] theorem loadPacket_pay (l : List Byte) : (loadPacket l s).pay = Memory.ofBytesFrom 0 l := rfl
@[simp] theorem loadPacket_chk (l : List Byte) : (loadPacket l s).chk = none := rfl
@[simp] theorem loadPacket_crc (l : List Byte) : (loadPacket l s).crc = s.crc := rfl
@[simp] theorem loadPacket_filled (l : List Byte) : (loadPacket l s).filled = true := rfl
@[simp] theorem loadPacket_valid (l : List Byte) : (loadPacket l s).valid = false := rfl
@[simp] theorem loadPacket_err (l : List Byte) : (loadPacket l s).err = s.err := rfl
@[simp] theorem loadPacket_inputs (l : List Byte) : (loadPacket l s).inputs = s.inputs := rfl
@[simp] theorem loadPacket_busy (l : List Byte) : (loadPacket l s).busy = s.busy := rfl
@[simp] theorem loadPacket_src (l : List Byte) : (loadPacket l s).src = s.src := rfl
@[simp] theorem loadPacket_srcReq (l : List Byte) : (loadPacket l s).srcReq = s.srcReq := rfl
@[simp] theorem loadPacket_sinkReady (l : List Byte) : (loadPacket l s).sinkReady = s.sinkReady := rfl
@[simp] theorem loadPacket_rsps (l : List Byte) : (loadPacket l s).rsps = s.rsps := rfl
@[simp] theorem loadPacket_tx (l : List Byte) : (loadPacket l s).tx = s.tx := rfl

@[simp] theorem invalidate_blk : (invalidate s).blk = s.blk := rfl
@[simp] theorem invalidate_pay : (invalidate s).pay = s.pay := rfl
@[simp] theorem invalidate_chk : (invalidate s).chk = none := rfl
@[simp] theorem invalidate_crc : (invalidate s).crc = s.crc := rfl
@[simp] theorem invalidate_filled : (invalidate s).filled = s.filled := rfl
@[simp] theorem invalidate_valid : (invalidate s).valid = false := rfl
@[simp] theorem invalidate_err : (invalidate s).err = s.err := rfl
@[simp] theorem invalidate_inputs : (invalidate s).inputs = s.inputs := rfl
@[simp] theorem invalidate_busy : (invalidate s).busy = s.busy := rfl
@[simp] theorem invalidate_src : (invalidate s).src = s.src := rfl
@[simp] theorem invalidate_srcReq : (invalidate s).srcReq = s.srcReq := rfl
@[simp] theorem invalidate_sinkReady : (invalidate s).sinkReady = s.sinkReady := rfl
@[simp] theorem invalidate_rsps : (invalidate s).rsps = s.rsps := rfl
@[simp] theorem invalidate_tx : (invalidate s).tx = s.tx := rfl

@[simp] theorem appendTx_blk (l : List Byte) : (appendTx l s).blk = s.blk := rfl
@[simp] theorem appendTx_pay (l : List Byte) : (appendTx l s).pay = s.pay := rfl
@[simp] theorem appendTx_chk (l : List Byte) : (appendTx l s).chk = s.chk := rfl
@[simp] theorem appendTx_crc (l : List Byte) : (appendTx l s).crc = s.crc := rfl
@[simp] theorem appendTx_filled (l : List Byte) : (appendTx l s).filled = s.filled := rfl
@[simp] theorem appendTx_valid (l : List Byte) : (appendTx l s).valid = s.valid := rfl
@[simp] theorem appendTx_err (l : List Byte) : (appendTx l s).err = s.err := rfl
@[simp] theorem appendTx_inputs (l : List Byte) : (appendTx l s).inputs = s.inputs := rfl
@[simp] theorem appendTx_busy (l : List Byte) : (appendTx l s).busy = s.busy := rfl
@[simp] theorem appendTx_src (l : List Byte) : (appendTx l s).src = s.src := rfl
@[simp] theorem appendTx_srcReq (l : List Byte) : (appendTx l s).srcReq = s.srcReq := rfl
@[simp] theorem appendTx_sinkReady (l : List Byte) : (appendTx l s).sinkReady = s.sinkReady := rfl
@[simp] theorem appendTx_rsps (l : List Byte) : (appendTx l s).rsps = s.rsps := rfl
@[simp] theorem appendTx_tx (l : List Byte) : (appendTx l s).tx = s.tx ++ l := rfl

@[simp] theorem memWrite_blk (i : BitVec 7) (v : Byte) : (memWrite i v s).blk = s.blk := rfl
@[simp] theorem memWrite_pay (i : BitVec 7) (v : Byte) : (memWrite i v s).pay = Memory.write s.pay i.toNat v := rfl
@[simp] theorem memWrite_chk (i : BitVec 7) (v : Byte) : (memWrite i v s).chk = s.chk := rfl
@[simp] theorem memWrite_crc (i : BitVec 7) (v : Byte) : (memWrite i v s).crc = s.crc := rfl
@[simp] theorem memWrite_filled (i : BitVec 7) (v : Byte) : (memWrite i v s).filled = s.filled := rfl
@[simp] theorem memWrite_valid (i : BitVec 7) (v : Byte) : (memWrite i v s).valid = s.valid := rfl
@[simp] theorem memWrite_err (i : BitVec 7) (v : Byte) : (memWrite i v s).err = s.err := rfl
@[simp] theorem memWrite_inputs (i : BitVec 7) (v : Byte) : (memWrite i v s).inputs = s.inputs := rfl
@[simp] theorem memWrite_busy (i : BitVec 7) (v : Byte) : (memWrite i v s).busy = s.busy := rfl
@[simp] theorem memWrite_src (i : BitVec 7) (v : Byte) : (memWrite i v s).src = s.src := rfl
@[simp] theorem memWrite_srcReq (i : BitVec 7) (v : Byte) : (memWrite i v s).srcReq = s.srcReq := rfl
@[simp] theorem memWrite_sinkReady (i : BitVec 7) (v : Byte) : (memWrite i v s).sinkReady = s.sinkReady := rfl
@[simp] theorem memWrite_rsps (i : BitVec 7) (v : Byte) : (memWrite i v s).rsps = s.rsps := rfl
@[simp] theorem memWrite_tx (i : BitVec 7) (v : Byte) : (memWrite i v s).tx = s.tx := rfl

@[simp] theorem resetBlock_blk : (resetBlock s).blk = 0x01#8 := rfl
@[simp] theorem resetBlock_pay : (resetBlock s).pay = [] := rfl
@[simp] theorem resetBlock_chk : (resetBlock s).chk = none := rfl
@[simp] theorem resetBlock_crc : (resetBlock s).crc = 0x0000#16 := rfl
@[simp] theorem resetBlock_filled : (resetBlock s).filled = false := rfl
@[simp] theorem resetBlock_valid : (resetBlock s).valid = false := rfl
@[simp] theorem resetBlock_err : (resetBlock s).err = 0#4 := rfl
@[simp] theorem resetBlock_inputs : (resetBlock s).inputs = s.inputs := rfl
@[simp] theorem resetBlock_busy : (resetBlock s).busy = s.busy := rfl
@[simp] theorem resetBlock_src : (resetBlock s).src = s.src := rfl
@[simp] theorem resetBlock_srcReq : (resetBlock s).srcReq = s.srcReq := rfl
@[simp] theorem resetBlock_sinkReady : (resetBlock s).sinkReady = s.sinkReady := rfl
@[simp] theorem resetBlock_rsps : (resetBlock s).rsps = s.rsps := rfl
@[simp] theorem resetBlock_tx : (resetBlock s).tx = s.tx := rfl

@[simp] theorem awaitSource_blk : (awaitSource s).blk = s.blk := rfl
@[simp] theorem awaitSource_pay : (awaitSource s).pay = s.pay := rfl
@[simp] theorem awaitSource_chk : (awaitSource s).chk = s.chk := rfl
@[simp] theorem awaitSource_crc : (awaitSource s).crc = s.crc := rfl
@[simp] theorem awaitSource_filled : (awaitSource s).filled = s.filled := rfl
@[simp] theorem awaitSource_valid : (awaitSource s).valid = s.valid := rfl
@[simp] theorem awaitSource_err : (awaitSource s).err = s.err := rfl
@[simp] theorem awaitSource_inputs : (awaitSource s).inputs = s.inputs := rfl
@[simp] theorem awaitSource_busy : (awaitSource s).busy = s.busy := rfl
@[simp] theorem awaitSource_src : (awaitSource s).src = s.src := rfl
@[simp] theorem awaitSource_srcReq : (awaitSource s).srcReq = true := rfl
@[simp] theorem awaitSource_sinkReady : (awaitSource s).sinkReady = s.sinkReady := rfl
@[simp] theorem awaitSource_rsps : (awaitSource s).rsps = s.rsps := rfl
@[simp] theorem awaitSource_tx : (awaitSource s).tx = s.tx := rfl

@[simp] theorem sourceAnswered_blk (rest : List SrcResponse) : (sourceAnswered rest s).blk = s.blk := rfl
@[simp] theorem sourceAnswered_pay (rest : List SrcResponse) : (sourceAnswered rest s).pay = s.pay := rfl
@[simp] theorem sourceAnswered_chk (rest : List SrcResponse) : (sourceAnswered rest s).chk = s.chk := rfl
@[simp] theorem sourceAnswered_crc (rest : List SrcResponse) : (sourceAnswered rest s).crc = s.crc := rfl
@[simp] theorem sourceAnswered_filled (rest : List SrcResponse) : (sourceAnswered rest s).filled = s.filled := rfl
@[simp] theorem sourceAnswered_valid (rest : List SrcResponse) : (sourceAnswered rest s).valid = s.valid := rfl
@[simp] theorem sourceAnswered_err (rest : List SrcResponse) : (sourceAnswered rest s).err = s.err := rfl
@[simp] theorem sourceAnswered_inputs (rest : List SrcResponse) : (sourceAnswered rest s).inputs = s.inputs := rfl
@[simp] theorem sourceAnswered_busy (rest : List SrcResponse) : (sourceAnswered rest s).busy = s.busy := rfl
@[simp] theorem sourceAnswered_src (rest : List SrcResponse) : (sourceAnswered rest s).src = rest := rfl
@[simp] theorem sourceAnswered_srcReq (rest : List SrcResponse) : (sourceAnswered rest s).srcReq = false := rfl
@[simp] theorem sourceAnswered_sinkReady (rest : List SrcResponse) : (sourceAnswered rest s).sinkReady = s.sinkReady := rfl
@[simp] theorem sourceAnswered_rsps (rest : List SrcResponse) : (sourceAnswered rest s).rsps = s.rsps := rfl
@[simp] theorem sourceAnswered_tx (rest : List SrcResponse) : (sourceAnswered rest s).tx = s.tx := rfl

@[simp] theorem fillFault_blk : (fillFault s).blk = s.blk := rfl
@[simp] theorem fillFault_pay : (fillFault s).pay = [] := rfl
@[simp] theorem fillFault_chk : (fillFault s).chk = none := rfl
@[simp] theorem fillFault_crc : (fillFault s).crc = s.crc := rfl
@[simp] theorem fillFault_filled : (fillFault s).filled = false := rfl
@[simp] theorem fillFault_valid : (fillFault s).valid = false := rfl
@[simp] theorem fillFault_err : (fillFault s).err = 2#4 := rfl
@[simp] theorem fillFault_inputs : (fillFault s).inputs = s.inputs := rfl
@[simp] theorem fillFault_busy : (fillFault s).busy = none := rfl
@[simp] theorem fillFault_src : (fillFault s).src = s.src := rfl
@[simp] theorem fillFault_srcReq : (fillFault s).srcReq = s.srcReq := rfl
@[simp] theorem fillFault_sinkReady : (fillFault s).sinkReady = s.sinkReady := rfl
@[simp] theorem fillFault_rsps : (fillFault s).rsps = s.rsps ++ [{ err := 2#4, data := 0x0000#16 }] := rfl
@[simp] theorem fillFault_tx : (fillFault s).tx = s.tx := rfl

@[simp] theorem fillDone_blk (n : Nat) (l : List Byte) : (fillDone n l s).blk = s.blk := rfl
@[simp] theorem fillDone_pay (n : Nat) (l : List Byte) : (fillDone n l s).pay = Memory.ofBytesFrom 0 l := rfl
@[simp] theorem fillDone_chk (n : Nat) (l : List Byte) : (fillDone n l s).chk = none := rfl
@[simp] theorem fillDone_crc (n : Nat) (l : List Byte) : (fillDone n l s).crc = s.crc := rfl
@[simp] theorem fillDone_filled (n : Nat) (l : List Byte) : (fillDone n l s).filled = true := rfl
@[simp] theorem fillDone_valid (n : Nat) (l : List Byte) : (fillDone n l s).valid = false := rfl
@[simp] theorem fillDone_err (n : Nat) (l : List Byte) : (fillDone n l s).err = s.err := rfl
@[simp] theorem fillDone_inputs (n : Nat) (l : List Byte) : (fillDone n l s).inputs = s.inputs := rfl
@[simp] theorem fillDone_busy (n : Nat) (l : List Byte) : (fillDone n l s).busy = none := rfl
@[simp] theorem fillDone_src (n : Nat) (l : List Byte) : (fillDone n l s).src = s.src := rfl
@[simp] theorem fillDone_srcReq (n : Nat) (l : List Byte) : (fillDone n l s).srcReq = s.srcReq := rfl
@[simp] theorem fillDone_sinkReady (n : Nat) (l : List Byte) : (fillDone n l s).sinkReady = s.sinkReady := rfl
@[simp] theorem fillDone_rsps (n : Nat) (l : List Byte) : (fillDone n l s).rsps = s.rsps ++ [{ err := 0#4, data := countData n }] := rfl
@[simp] theorem fillDone_tx (n : Nat) (l : List Byte) : (fillDone n l s).tx = s.tx := rfl

@[simp] theorem csumDone_blk (c : Word) : (csumDone c s).blk = s.blk := rfl
@[simp] theorem csumDone_pay (c : Word) : (csumDone c s).pay = s.pay := rfl
@[simp] theorem csumDone_chk (c : Word) : (csumDone c s).chk = some c := rfl
@[simp] theorem csumDone_crc (c : Word) : (csumDone c s).crc = c := rfl
@[simp] theorem csumDone_filled (c : Word) : (csumDone c s).filled = s.filled := rfl
@[simp] theorem csumDone_valid (c : Word) : (csumDone c s).valid = true := rfl
@[simp] theorem csumDone_err (c : Word) : (csumDone c s).err = s.err := rfl
@[simp] theorem csumDone_inputs (c : Word) : (csumDone c s).inputs = s.inputs := rfl
@[simp] theorem csumDone_busy (c : Word) : (csumDone c s).busy = none := rfl
@[simp] theorem csumDone_src (c : Word) : (csumDone c s).src = s.src := rfl
@[simp] theorem csumDone_srcReq (c : Word) : (csumDone c s).srcReq = s.srcReq := rfl
@[simp] theorem csumDone_sinkReady (c : Word) : (csumDone c s).sinkReady = s.sinkReady := rfl
@[simp] theorem csumDone_rsps (c : Word) : (csumDone c s).rsps = s.rsps ++ [{ err := 0#4, data := c }] := rfl
@[simp] theorem csumDone_tx (c : Word) : (csumDone c s).tx = s.tx := rfl

@[simp] theorem takeCommand_blk (w : Command) (rest : List HostInput) : (takeCommand w rest s).blk = s.blk := rfl
@[simp] theorem takeCommand_pay (w : Command) (rest : List HostInput) : (takeCommand w rest s).pay = s.pay := rfl
@[simp] theorem takeCommand_chk (w : Command) (rest : List HostInput) : (takeCommand w rest s).chk = s.chk := rfl
@[simp] theorem takeCommand_crc (w : Command) (rest : List HostInput) : (takeCommand w rest s).crc = s.crc := rfl
@[simp] theorem takeCommand_filled (w : Command) (rest : List HostInput) : (takeCommand w rest s).filled = s.filled := rfl
@[simp] theorem takeCommand_valid (w : Command) (rest : List HostInput) : (takeCommand w rest s).valid = s.valid := rfl
@[simp] theorem takeCommand_err (w : Command) (rest : List HostInput) : (takeCommand w rest s).err = s.err := rfl
@[simp] theorem takeCommand_inputs (w : Command) (rest : List HostInput) : (takeCommand w rest s).inputs = rest := rfl
@[simp] theorem takeCommand_busy (w : Command) (rest : List HostInput) : (takeCommand w rest s).busy = some w := rfl
@[simp] theorem takeCommand_src (w : Command) (rest : List HostInput) : (takeCommand w rest s).src = s.src := rfl
@[simp] theorem takeCommand_srcReq (w : Command) (rest : List HostInput) : (takeCommand w rest s).srcReq = s.srcReq := rfl
@[simp] theorem takeCommand_sinkReady (w : Command) (rest : List HostInput) : (takeCommand w rest s).sinkReady = s.sinkReady := rfl
@[simp] theorem takeCommand_rsps (w : Command) (rest : List HostInput) : (takeCommand w rest s).rsps = s.rsps := rfl
@[simp] theorem takeCommand_tx (w : Command) (rest : List HostInput) : (takeCommand w rest s).tx = s.tx := rfl

@[simp] theorem takeRst_blk (rest : List HostInput) : (takeRst rest s).blk = 0x01#8 := rfl
@[simp] theorem takeRst_pay (rest : List HostInput) : (takeRst rest s).pay = [] := rfl
@[simp] theorem takeRst_chk (rest : List HostInput) : (takeRst rest s).chk = none := rfl
@[simp] theorem takeRst_crc (rest : List HostInput) : (takeRst rest s).crc = 0x0000#16 := rfl
@[simp] theorem takeRst_filled (rest : List HostInput) : (takeRst rest s).filled = false := rfl
@[simp] theorem takeRst_valid (rest : List HostInput) : (takeRst rest s).valid = false := rfl
@[simp] theorem takeRst_err (rest : List HostInput) : (takeRst rest s).err = 0#4 := rfl
@[simp] theorem takeRst_inputs (rest : List HostInput) : (takeRst rest s).inputs = rest := rfl
@[simp] theorem takeRst_busy (rest : List HostInput) : (takeRst rest s).busy = s.busy := rfl
@[simp] theorem takeRst_src (rest : List HostInput) : (takeRst rest s).src = s.src := rfl
@[simp] theorem takeRst_srcReq (rest : List HostInput) : (takeRst rest s).srcReq = s.srcReq := rfl
@[simp] theorem takeRst_sinkReady (rest : List HostInput) : (takeRst rest s).sinkReady = s.sinkReady := rfl
@[simp] theorem takeRst_rsps (rest : List HostInput) : (takeRst rest s).rsps = s.rsps := rfl
@[simp] theorem takeRst_tx (rest : List HostInput) : (takeRst rest s).tx = s.tx := rfl

@[simp] theorem placeWord_blk (w : Command) : (placeWord w s).blk = s.blk := rfl
@[simp] theorem placeWord_pay (w : Command) : (placeWord w s).pay = s.pay := rfl
@[simp] theorem placeWord_chk (w : Command) : (placeWord w s).chk = s.chk := rfl
@[simp] theorem placeWord_crc (w : Command) : (placeWord w s).crc = s.crc := rfl
@[simp] theorem placeWord_filled (w : Command) : (placeWord w s).filled = s.filled := rfl
@[simp] theorem placeWord_valid (w : Command) : (placeWord w s).valid = s.valid := rfl
@[simp] theorem placeWord_err (w : Command) : (placeWord w s).err = s.err := rfl
@[simp] theorem placeWord_inputs (w : Command) : (placeWord w s).inputs = .cmd w :: s.inputs := rfl
@[simp] theorem placeWord_busy (w : Command) : (placeWord w s).busy = none := rfl
@[simp] theorem placeWord_src (w : Command) : (placeWord w s).src = s.src := rfl
@[simp] theorem placeWord_srcReq (w : Command) : (placeWord w s).srcReq = s.srcReq := rfl
@[simp] theorem placeWord_sinkReady (w : Command) : (placeWord w s).sinkReady = s.sinkReady := rfl
@[simp] theorem placeWord_rsps (w : Command) : (placeWord w s).rsps = s.rsps := rfl
@[simp] theorem placeWord_tx (w : Command) : (placeWord w s).tx = s.tx := rfl

/-- The payload is read from `PAY` alone. -/
theorem payload_of_pay {s t : State} (h : t.pay = s.pay) : payload t = payload s := by
  simp only [payload, h]

end Sys2Proof.Machine
end

