-- ==== Sys2Proof/Laws/Memory.lean ====
section
/-! SUPPORT. The laws of `PAY` as a memory: reading after writing, and that every memory operation keeps the canonical
form (20_memory.md R40, R52). -/

namespace Sys2Proof.Machine

theorem Memory.read_nil (a : Nat) : Memory.read [] a = none := rfl

theorem Memory.read_cons (k : Nat) (v : Byte) (m : Memory) (a : Nat) :
    Memory.read ((k, v) :: m) a = if k = a then some v else Memory.read m a := rfl

/-- A read after a write to the same address gives the byte written. -/
theorem Memory.read_write_same (m : Memory) (a : Nat) (v : Byte) :
    Memory.read (Memory.write m a v) a = some v := by
  induction m with
  | nil => simp [Memory.write, Memory.read]
  | cons c m ih =>
    obtain ⟨k, x⟩ := c
    simp only [Memory.write]
    split
    · simp [Memory.read]
    · split
      · simp [Memory.read]
      · have hk : k ≠ a := by omega
        simp [Memory.read, hk, ih]

/-- A write leaves every other address alone. -/
theorem Memory.read_write_other (m : Memory) (a : Nat) (v : Byte) {x : Nat} (h : x ≠ a) :
    Memory.read (Memory.write m a v) x = Memory.read m x := by
  induction m with
  | nil => simp [Memory.write, Memory.read, h.symm]
  | cons c m ih =>
    obtain ⟨k, y⟩ := c
    simp only [Memory.write]
    split
    · simp [Memory.read, h.symm]
    · split
      · rename_i hk
        subst hk
        simp [Memory.read, h.symm]
      · simp [Memory.read, ih]

theorem Memory.wfFrom_mono {lo lo' : Nat} {m : Memory} (h : Memory.wfFrom lo m = true) (hl : lo' ≤ lo) :
    Memory.wfFrom lo' m = true := by
  cases m with
  | nil => rfl
  | cons c m =>
    obtain ⟨k, v⟩ := c
    simp only [Memory.wfFrom, Bool.and_eq_true, decide_eq_true_eq] at h ⊢
    exact ⟨⟨Nat.le_trans hl h.1.1, h.1.2⟩, h.2⟩

theorem Memory.wfFrom_write {lo : Nat} {m : Memory} {a : Nat} (v : Byte) (h : Memory.wfFrom lo m = true)
    (hlo : lo ≤ a) (ha : a < Config.payloadLen) : Memory.wfFrom lo (Memory.write m a v) = true := by
  induction m generalizing lo with
  | nil => simp [Memory.write, Memory.wfFrom, hlo]; exact ha
  | cons c m ih =>
    obtain ⟨k, x⟩ := c
    simp only [Memory.wfFrom, Bool.and_eq_true, decide_eq_true_eq] at h
    obtain ⟨⟨h1, h2⟩, h3⟩ := h
    simp only [Memory.write]
    split
    · simp only [Memory.wfFrom, Bool.and_eq_true, decide_eq_true_eq]
      exact ⟨⟨hlo, ha⟩, ⟨by omega, h2⟩, h3⟩
    · split
      · rename_i hk
        subst hk
        simp only [Memory.wfFrom, Bool.and_eq_true, decide_eq_true_eq]
        exact ⟨⟨hlo, ha⟩, h3⟩
      · simp only [Memory.wfFrom, Bool.and_eq_true, decide_eq_true_eq]
        exact ⟨⟨h1, h2⟩, ih h3 (by omega)⟩

/-- Writing a payload byte keeps the canonical form. -/
theorem Memory.wf_write {m : Memory} {a : Nat} (v : Byte) (h : Memory.wf m = true)
    (ha : a < Config.payloadLen) : Memory.wf (Memory.write m a v) = true :=
  Memory.wfFrom_write v h (Nat.zero_le a) ha

theorem Memory.wfFrom_ofBytesFrom (a : Nat) (l : List Byte) (h : a + l.length ≤ Config.payloadLen) :
    Memory.wfFrom a (Memory.ofBytesFrom a l) = true := by
  induction l generalizing a with
  | nil => rfl
  | cons b l ih =>
    simp only [List.length_cons] at h
    simp only [Memory.ofBytesFrom, Memory.wfFrom, Bool.and_eq_true, decide_eq_true_eq]
    exact ⟨⟨Nat.le_refl a, by omega⟩, ih (a + 1) (by omega)⟩

/-- A loaded payload has the canonical form. -/
theorem Memory.wf_ofBytesFrom (l : List Byte) (h : l.length ≤ Config.payloadLen) :
    Memory.wf (Memory.ofBytesFrom 0 l) = true :=
  Memory.wfFrom_ofBytesFrom 0 l (by omega)

/-- The emptied payload has the canonical form. -/
theorem Memory.wf_nil : Memory.wf [] = true := rfl

theorem Memory.read_ofBytesFrom (a : Nat) (l : List Byte) (k : Nat) :
    Memory.read (Memory.ofBytesFrom a l) (a + k) = l[k]? := by
  induction l generalizing a k with
  | nil => rfl
  | cons b l ih =>
    cases k with
    | zero => simp [Memory.ofBytesFrom, Memory.read]
    | succ k =>
      have h : a ≠ a + (k + 1) := by omega
      have e : a + (k + 1) = a + 1 + k := by omega
      simp only [Memory.ofBytesFrom, Memory.read, if_neg h, List.getElem?_cons_succ]
      rw [e, ih]

/-- Byte `k` of a loaded payload is byte `k` of the list (R106). -/
theorem Memory.read_loaded (l : List Byte) (k : Nat) :
    Memory.read (Memory.ofBytesFrom 0 l) k = l[k]? := by
  simpa using Memory.read_ofBytesFrom 0 l k

/-- Reading several bytes depends on the bytes read alone. -/
theorem Memory.bytesFrom_congr {m m' : Memory} {a n : Nat}
    (h : ∀ x, a ≤ x → x < a + n → Memory.read m' x = Memory.read m x) :
    Memory.bytesFrom m' a n = Memory.bytesFrom m a n := by
  induction n generalizing a with
  | zero => rfl
  | succ n ih =>
    simp only [Memory.bytesFrom]
    rw [h a (Nat.le_refl a) (by omega), ih fun x h1 h2 => h x (by omega) (by omega)]

/-- What reading several bytes gives, byte by byte. -/
theorem Memory.bytesFrom_eq_some {m : Memory} {a n : Nat} {l : List Byte} :
    Memory.bytesFrom m a n = some l ↔
      l.length = n ∧ ∀ k, k < n → Memory.read m (a + k) = l[k]? := by
  induction n generalizing a l with
  | zero =>
    simp only [Memory.bytesFrom, Option.some.injEq]
    constructor
    · rintro rfl; simp
    · rintro ⟨h, -⟩; exact (List.length_eq_zero_iff.mp h).symm
  | succ n ih =>
    simp only [Memory.bytesFrom]
    constructor
    · intro h
      split at h
      · cases h
      · rename_i b hb
        split at h
        · cases h
        · rename_i bs hbs
          cases h
          obtain ⟨h1, h2⟩ := ih.mp hbs
          refine ⟨by simp [h1], fun k hk => ?_⟩
          cases k with
          | zero => simpa using hb
          | succ k =>
            have e : a + (k + 1) = a + 1 + k := by omega
            rw [e, h2 k (by omega)]
            simp
    · rintro ⟨h1, h2⟩
      cases l with
      | nil => simp at h1
      | cons b bs =>
        have hb := h2 0 (by omega)
        simp only [Nat.add_zero, List.length_cons, List.getElem?_cons_zero] at hb h1
        have hbs : Memory.bytesFrom m (a + 1) n = some bs := by
          refine ih.mpr ⟨by omega, fun k hk => ?_⟩
          have e : a + 1 + k = a + (k + 1) := by omega
          rw [e, h2 (k + 1) (by omega)]
          simp
        simp [hb, hbs]

/-- A loaded payload of 128 bytes reads back whole. -/
theorem payload_loaded {s : State} {l : List Byte} (h : l.length = Config.payloadLen)
    (hp : s.pay = Memory.ofBytesFrom 0 l) : payload s = some l := by
  rw [payload, hp, Memory.bytesFrom_eq_some]
  exact ⟨h, fun k _ => by rw [Nat.zero_add]; exact Memory.read_loaded l k⟩

/-- A payload has 128 bytes. -/
theorem payload_length {s : State} {l : List Byte} (h : payload s = some l) :
    l.length = Config.payloadLen := (Memory.bytesFrom_eq_some.mp h).1

/-- Byte `k` of a payload is what reading address `k` gives. -/
theorem payload_read {s : State} {l : List Byte} (h : payload s = some l) {k : Nat}
    (hk : k < Config.payloadLen) : Memory.read s.pay k = l[k]? := by
  simpa using (Memory.bytesFrom_eq_some.mp h).2 k hk

/-- A padded short read has 128 bytes (41_packet.md R108). -/
theorem padded_length {l : List Byte} (h : l.length ≤ Config.payloadLen) :
    (padded l).length = Config.payloadLen := by
  simp only [padded, List.length_append, List.length_replicate]
  omega

/-- A payload that holds values still does after one of its bytes is written. -/
theorem payload_memWrite {s : State} {l : List Byte} (i : BitVec 7) (v : Byte)
    (h : payload s = some l) : payload (memWrite i v s) = some (l.set i.toNat v) := by
  have hl := payload_length h
  rw [payload, Memory.bytesFrom_eq_some]
  refine ⟨by simp [hl], fun k hk => ?_⟩
  rw [Nat.zero_add, memWrite_pay, List.getElem?_set]
  by_cases hki : k = i.toNat
  · subst hki
    rw [Memory.read_write_same]
    simp [hl, hk]
  · rw [Memory.read_write_other _ _ _ hki, payload_read h hk]
    simp [Ne.symm hki]

end Sys2Proof.Machine
end

