-- ==== Sys2Proof/Laws/Ops.lean ====
section
/-! SUPPORT. What each shared operation and each meaning can answer, said once: a proof cites the lemma and does not
unfold the definition. -/

namespace Sys2Proof.Machine

variable {s t : State}

/-- A running block goes on. -/
theorem whenRunning_running {k : Out} (h : s.err = 0#4) : whenRunning s k = k := if_pos h

/-- A halted block refuses. -/
theorem whenRunning_halted {k : Out} (h : s.err ≠ 0#4) : whenRunning s k = .next (refuse s) := if_neg h

/-- Everything the halted check can answer with a next state. -/
theorem whenRunning_next {k : Out} (h : whenRunning s k = .next t) :
    (s.err ≠ 0#4 ∧ t = refuse s) ∨ (s.err = 0#4 ∧ k = .next t) := by
  by_cases he : s.err = 0#4
  · rw [whenRunning_running he] at h
    exact .inr ⟨he, h⟩
  · rw [whenRunning_halted he] at h
    exact .inl ⟨he, by injection h with h; exact h.symm⟩

/-- Everything a reserved word can do (R172, R175). -/
theorem reservedWord_next (h : reservedWord s = .next t) :
    (s.err ≠ 0#4 ∧ t = refuse s) ∨ (s.err = 0#4 ∧ t = raise .illegalCommand s) := by
  obtain h | ⟨he, h⟩ := whenRunning_next h
  · exact .inl h
  · injection h with h; exact .inr ⟨he, h.symm⟩

/-- Everything the source's answer can lead to (R107 to R110). -/
theorem fillWith_cases (r : SrcResponse) (s : State) :
    (r.good = true ∧ ∃ (d : SrcBytes) (eos : Bool) (l : List Byte), r = .data d eos ∧
      l.length = Config.payloadLen ∧ l = padded d.bytes ∧ fillWith r s = fillDone d.bytes.length l s) ∨
    (r.good = false ∧ fillWith r s = fillFault s) := by
  cases r with
  | fail => exact .inr ⟨rfl, rfl⟩
  | data d eos =>
    by_cases hl : d.bytes.length = Config.payloadLen
    · refine .inl ⟨by simp [SrcResponse.good, hl], d, eos, d.bytes, rfl, hl, ?_, ?_⟩
      · simp [padded, hl]
      · simp [fillWith, hl]
    · cases eos with
      | true =>
        refine .inl ⟨by simp [SrcResponse.good], d, true, padded d.bytes, rfl, padded_length d.atMost128, rfl, ?_⟩
        simp [fillWith, hl]
      | false => exact .inr ⟨by simp [SrcResponse.good, hl], by simp [fillWith, hl]⟩

theorem execSysRst_next (h : execSysRst s = .next t) : t = respond 0#16 (resetBlock s) := by
  injection h with h; exact h.symm

theorem execSysStat_next (h : execSysStat s = .next t) : t = respond (zext16 s.status) s := by
  injection h with h; exact h.symm

theorem execCrcClr_next (h : execCrcClr s = .next t) :
    (s.err ≠ 0#4 ∧ t = refuse s) ∨ (s.err = 0#4 ∧ t = respond 0#16 { s with crc := 0#16 }) := by
  obtain h | ⟨he, h⟩ := whenRunning_next h
  · exact .inl h
  · injection h with h; exact .inr ⟨he, h.symm⟩

theorem execCrcUpd_next {b : Byte} (h : execCrcUpd b s = .next t) :
    (s.err ≠ 0#4 ∧ t = refuse s) ∨
    (s.err = 0#4 ∧ t = respond 0#16 { s with crc := crc16Byte s.crc b }) := by
  obtain h | ⟨he, h⟩ := whenRunning_next h
  · exact .inl h
  · injection h with h; exact .inr ⟨he, h.symm⟩

theorem execCrcRd_next (h : execCrcRd s = .next t) :
    (s.err ≠ 0#4 ∧ t = refuse s) ∨ (s.err = 0#4 ∧ t = respond s.crc s) := by
  obtain h | ⟨he, h⟩ := whenRunning_next h
  · exact .inl h
  · injection h with h; exact .inr ⟨he, h.symm⟩

theorem execPktInit_next {n : Byte} (h : execPktInit n s = .next t) :
    (s.err ≠ 0#4 ∧ t = refuse s) ∨ (s.err = 0#4 ∧ t = respond 0#16 { emptyPacket s with blk := n }) := by
  obtain h | ⟨he, h⟩ := whenRunning_next h
  · exact .inl h
  · injection h with h; exact .inr ⟨he, h.symm⟩

theorem execPktNext_next (h : execPktNext s = .next t) :
    (s.err ≠ 0#4 ∧ t = refuse s) ∨
    (s.err = 0#4 ∧ t = respond (zext16 (s.blk + 1#8)) { emptyPacket s with blk := s.blk + 1#8 }) := by
  obtain h | ⟨he, h⟩ := whenRunning_next h
  · exact .inl h
  · injection h with h; exact .inr ⟨he, h.symm⟩

theorem execPktFill_next (h : execPktFill s = .next t) :
    (s.err ≠ 0#4 ∧ t = refuse s) ∨
    (s.err = 0#4 ∧ s.src = [] ∧ t = awaitSource s) ∨
    (s.err = 0#4 ∧ ∃ r rest, s.src = r :: rest ∧ t = fillWith r (sourceAnswered rest s)) := by
  obtain h | ⟨he, h⟩ := whenRunning_next h
  · exact .inl h
  · split at h
    · rename_i hs
      injection h with h; exact .inr (.inl ⟨he, hs, h.symm⟩)
    · rename_i r rest hs
      injection h with h; exact .inr (.inr ⟨he, r, rest, hs, h.symm⟩)

theorem execPktPoke_next {i : BitVec 7} {b : Byte} (h : execPktPoke i b s = .next t) :
    (s.err ≠ 0#4 ∧ t = refuse s) ∨
    (s.err = 0#4 ∧ s.filled = false ∧ t = raise .illegalState s) ∨
    (s.err = 0#4 ∧ s.filled = true ∧ t = respond 0#16 (invalidate (memWrite i b s))) := by
  obtain h | ⟨he, h⟩ := whenRunning_next h
  · exact .inl h
  · split at h <;> rename_i hf <;> injection h with h
    · exact .inr (.inl ⟨he, hf, h.symm⟩)
    · exact .inr (.inr ⟨he, by simpa using hf, h.symm⟩)

theorem execPktPeek_next {i : BitVec 7} (h : execPktPeek i s = .next t) :
    (s.err ≠ 0#4 ∧ t = refuse s) ∨
    (s.err = 0#4 ∧ s.filled = false ∧ t = raise .illegalState s) ∨
    (s.err = 0#4 ∧ s.filled = true ∧ ∃ b, memRead i s = some b ∧ t = respond (zext16 b) s) := by
  obtain h | ⟨he, h⟩ := whenRunning_next h
  · exact .inl h
  · split at h
    · rename_i hf
      injection h with h
      exact .inr (.inl ⟨he, hf, h.symm⟩)
    · rename_i hf
      split at h
      · rename_i b hb
        injection h with h
        exact .inr (.inr ⟨he, by simpa using hf, b, hb, h.symm⟩)
      · cases h

theorem execPktCsum_next (h : execPktCsum s = .next t) :
    (s.err ≠ 0#4 ∧ t = refuse s) ∨
    (s.err = 0#4 ∧ s.filled = false ∧ t = raise .illegalState s) ∨
    (s.err = 0#4 ∧ s.filled = true ∧ ∃ l, payload s = some l ∧ t = csumDone (crc16 l) s) := by
  obtain h | ⟨he, h⟩ := whenRunning_next h
  · exact .inl h
  · split at h
    · rename_i hf
      injection h with h
      exact .inr (.inl ⟨he, hf, h.symm⟩)
    · rename_i hf
      split at h
      · rename_i l hl
        injection h with h
        exact .inr (.inr ⟨he, by simpa using hf, l, hl, h.symm⟩)
      · cases h

/-- The current packet has a frame exactly when its payload and its checksum hold values. -/
theorem currentFrame_eq_some {f : List Byte} :
    currentFrame s = some f ↔ ∃ l c, payload s = some l ∧ s.chk = some c ∧ f = frame s.blk l c := by
  unfold currentFrame
  constructor
  · intro h
    split at h
    · rename_i l c hl hc
      injection h with h
      exact ⟨l, c, hl, hc, h.symm⟩
    · cases h
  · rintro ⟨l, c, hl, hc, rfl⟩
    rw [hl, hc]

/-- A frame has 133 bytes (30_encoding.md R60). -/
theorem frame_length {b : Byte} {l : List Byte} {c : Word} (h : l.length = Config.payloadLen) :
    (frame b l c).length = Config.frameLen := by
  simp [frame, h]

theorem execPktEmit_next (h : execPktEmit s = .next t) :
    (s.err ≠ 0#4 ∧ t = refuse s) ∨
    (s.err = 0#4 ∧ s.valid = false ∧ t = raise .illegalState s) ∨
    (s.err = 0#4 ∧ s.valid = true ∧ ∃ f, currentFrame s = some f ∧
      ((s.sinkReady = true ∧ t = respond 0#16 (appendTx f s)) ∨ (s.sinkReady = false ∧ t = s))) := by
  obtain h | ⟨he, h⟩ := whenRunning_next h
  · exact .inl h
  · split at h
    · rename_i hv
      injection h with h
      exact .inr (.inl ⟨he, hv, h.symm⟩)
    · rename_i hv
      split at h
      · cases h
      · rename_i f hf
        refine .inr (.inr ⟨he, by simpa using hv, f, hf, ?_⟩)
        split at h <;> rename_i hr <;> injection h with h
        · exact .inl ⟨hr, h.symm⟩
        · exact .inr ⟨by simpa using hr, h.symm⟩

/-- Everything the dispatch of a word can do: the meaning of the instruction it decodes to, or a reserved word's. -/
theorem dispatch_cases (w : Command) (s : State) :
    (∃ i, decode w = .ok i ∧ dispatch w s = exec i s) ∨
    (∃ r, decode w = .error r ∧ dispatch w s = reservedWord s) := by
  unfold dispatch
  cases h : decode w with
  | ok i => exact .inl ⟨i, rfl, rfl⟩
  | error r => exact .inr ⟨r, rfl, rfl⟩

/-- Everything a step can do: go on with the command in progress, wait for an input, take `rst`, or take a command. -/
theorem step_cases (s : State) :
    (∃ w, s.busy = some w ∧ step s = dispatch w s) ∨
    (s.busy = none ∧ s.inputs = [] ∧ step s = .next s) ∨
    (s.busy = none ∧ ∃ rest, s.inputs = .rst :: rest ∧ step s = .next (takeRst rest s)) ∨
    (s.busy = none ∧ ∃ w rest, s.inputs = .cmd w :: rest ∧ step s = dispatch w (takeCommand w rest s)) := by
  simp only [step, runInput]
  cases hb : s.busy with
  | some w => exact .inl ⟨w, rfl, rfl⟩
  | none =>
    cases hi : s.inputs with
    | nil => exact .inr (.inl ⟨rfl, rfl, rfl⟩)
    | cons x rest =>
      cases x with
      | rst => exact .inr (.inr (.inl ⟨rfl, rest, rfl, rfl⟩))
      | cmd w => exact .inr (.inr (.inr ⟨rfl, w, rest, rfl, rfl⟩))

end Sys2Proof.Machine
end

