-- ==== Sys2Proof/Machine/Asm.lean ====
section
/-! DEFINITION. Reading an assembler line (30_encoding.md R75): a mnemonic, then operands separated by commas; numbers
decimal or `0x` hexadecimal; a data byte may be a character in single quotes; `;` starts a comment; for `PKT.FILL` the
source response (R70) after `<-`. The step does not use it: the block takes command words. -/

namespace Sys2Proof.Machine

/-- The line up to its comment, with each character in single quotes turned into one quote and its ASCII code in decimal,
so that a quoted separator separates nothing. -/
def asmCode : List Char → Option (List Char)
  | [] => some []
  | ';' :: _ => some []
  | '\'' :: c :: '\'' :: l =>
    if c.toNat < 128 then (asmCode l).map fun r => '\'' :: ((Nat.repr c.toNat).toList ++ r) else none
  | '\'' :: _ => none
  | c :: l => (asmCode l).map fun r => c :: r

def asmTrimLeft (l : List Char) : List Char := l.dropWhile (· == ' ')

def asmTrim (l : List Char) : List Char := (asmTrimLeft (asmTrimLeft l).reverse).reverse

/-- The pieces between separators. -/
def asmSplit (sep : Char) : List Char → List (List Char)
  | [] => [[]]
  | c :: l =>
    match asmSplit sep l with
    | [] => [[c]]
    | p :: ps => if c == sep then [] :: p :: ps else (c :: p) :: ps

/-- The hexadecimal digits in the order of their values; the first ten are the decimal digits. -/
def asmDigitOrder : List Char := "0123456789ABCDEF".toList

/-- The value of a digit of a base up to 16: its place in that order. A letter may be small. -/
def asmDigit (base : Nat) (c : Char) : Option Nat :=
  (asmDigitOrder.take base).idxOf? c.toUpper

/-- The value of digits in a base, going on from `n`. -/
def asmDigitsFrom (base : Nat) : Nat → List Char → Option Nat
  | n, [] => some n
  | n, c :: l =>
    match asmDigit base c with
    | some d => asmDigitsFrom base (n * base + d) l
    | none => none

/-- At least one digit. -/
def asmDigits (base : Nat) (l : List Char) : Option Nat :=
  if l.isEmpty then none else asmDigitsFrom base 0 l

/-- A number, decimal or `0x` hexadecimal, of `n` bits. -/
def asmNumber (n : Nat) (l : List Char) : Option (BitVec n) :=
  let v := match l with
    | '0' :: 'x' :: ds => asmDigits 16 ds
    | ds => asmDigits 10 ds
  match v with
  | some k => if k < 2 ^ n then some (BitVec.ofNat n k) else none
  | none => none

/-- A data byte: a number, or the code of a character in single quotes, as `asmCode` leaves it. -/
def asmByte (l : List Char) : Option Byte :=
  match l with
  | '\'' :: ds => (asmDigits 10 ds).map (BitVec.ofNat 8)
  | l => asmNumber 8 l

/-- The operation a mnemonic names. -/
def asmOp (l : List Char) : Option Op := Op.all.find? fun o => o.mnemonic.toList == l

/-- An operation with its operands, which must be as many as it has. -/
def asmInstr (o : Op) (operands : List (List Char)) : Option Instr :=
  match o, operands with
  | .sysRst, [] => some .sysRst
  | .sysStat, [] => some .sysStat
  | .crcClr, [] => some .crcClr
  | .crcUpd, [b] => (asmByte b).map .crcUpd
  | .crcRd, [] => some .crcRd
  | .pktInit, [n] => (asmNumber 8 n).map .pktInit
  | .pktFill, [] => some .pktFill
  | .pktPoke, [i, b] =>
    match asmNumber 7 i, asmByte b with
    | some i, some b => some (.pktPoke i b)
    | _, _ => none
  | .pktPeek, [i] => (asmNumber 7 i).map .pktPeek
  | .pktCsum, [] => some .pktCsum
  | .pktNext, [] => some .pktNext
  | .pktEmit, [] => some .pktEmit
  | _, _ => none

/-- Operands separated by commas; none where there is nothing. -/
def asmOperands (l : List Char) : List (List Char) :=
  if (asmTrim l).isEmpty then [] else (asmSplit ',' l).map asmTrim

/-- A line without its source response: mnemonic, then operands. -/
def asmCommand (l : List Char) : Option Instr :=
  let t := asmTrim l
  match asmOp (t.takeWhile (· != ' ')) with
  | some o => asmInstr o (asmOperands (t.dropWhile (· != ' ')))
  | none => none

/-- Bytes of two hexadecimal digits, separated by spaces. -/
def asmHexBytes : List (List Char) → Option (List Byte)
  | [] => some []
  | [] :: l => asmHexBytes l
  | [a, b] :: l =>
    match asmDigits 16 [a, b], asmHexBytes l with
    | some v, some bs => some (BitVec.ofNat 8 v :: bs)
    | _, _ => none
  | _ :: _ => none

/-- `eos=0` or `eos=1`. -/
def asmEos (l : List Char) : Option Bool :=
  if l == "eos=0".toList then some false else if l == "eos=1".toList then some true else none

/-- At most 128 bytes, as the source gives them (00_scope.md R14). -/
def asmSrcBytes (l : List Byte) : Option SrcBytes :=
  if h : l.length ≤ 128 then some ⟨l, h⟩ else none

/-- A source response (R70): `SRC(<hex bytes>, eos=<0|1>)` or `SRCFAIL`. -/
def asmSource (l : List Char) : Option SrcResponse :=
  match asmTrim l with
  | ['S', 'R', 'C', 'F', 'A', 'I', 'L'] => some .fail
  | 'S' :: 'R' :: 'C' :: '(' :: r =>
    match r.reverse with
    | ')' :: m =>
      match asmSplit ',' m.reverse with
      | [bytes, eos] =>
        match asmHexBytes (asmSplit ' ' bytes), asmEos (asmTrim eos) with
        | some bs, some e => (asmSrcBytes bs).map fun d => .data d e
        | _, _ => none
      | _ => none
    | _ => none
  | _ => none

/-- An assembler line: the operation, and the source response written after `<-`, which only `PKT.FILL` has. -/
def asmLine (line : String) : Option (Instr × Option SrcResponse) :=
  match (asmCode line.toList).map (asmSplit '<') with
  | some [cmd] => (asmCommand cmd).map fun i => (i, none)
  | some [cmd, '-' :: response] =>
    match asmCommand cmd, asmSource response with
    | some .pktFill, some r => some (.pktFill, some r)
    | _, _ => none
  | _ => none

end Sys2Proof.Machine
end

