-- ==== Sys2Proof/Tests/Slice0.lean ====
section
/-! SUPPORT. The model's own tests: the well-formedness checks refuse an ill-formed term each; words written out from the
encodings decode; one step of each operation against 95_test_vectors.md; and a witness for the hypotheses of each
statement. Expected values are those of spec/95_test_vectors.md (the vector is named) or of the rule named. -/

namespace Sys2Proof.Tests

open Sys2Proof Sys2Proof.Machine

-- One theorem at a time: each thread of the elaborator reserves its own stack.
set_option Elab.async false

/-! ### The well-formedness checks (30_encoding.md R66) -/

theorem test_fits_none_refuses_a : (RawCommand.mk 0x10#8 0x01#8 0x00#8).fits .none = false := by decide
theorem test_fits_none_refuses_b : (RawCommand.mk 0x10#8 0x00#8 0x01#8).fits .none = false := by decide
theorem test_fits_a8_refuses_b : (RawCommand.mk 0x11#8 0xFF#8 0x80#8).fits .a8 = false := by decide
theorem test_fits_idx_refuses_bit7 : (RawCommand.mk 0x23#8 0x80#8 0x00#8).fits .idx = false := by decide
theorem test_fits_idx_refuses_b : (RawCommand.mk 0x23#8 0x7F#8 0x01#8).fits .idx = false := by decide
theorem test_fits_idxB8_refuses_bit7 : (RawCommand.mk 0x22#8 0xFF#8 0x00#8).fits .idxB8 = false := by decide
theorem test_fits_accepts : (RawCommand.mk 0x22#8 0x7F#8 0xFF#8).fits .idxB8 = true := by decide

/-! ### Decoding: words written out bit by bit from R65 and R68 (vectors of 95_test_vectors.md 2.7) -/

theorem test_decode_sysRst : decode 0b00000001_00000000_00000000#24 = .ok .sysRst := by rfl
theorem test_decode_sysStat : decode 0b00000010_00000000_00000000#24 = .ok .sysStat := by rfl
theorem test_decode_crcClr : decode 0b00010000_00000000_00000000#24 = .ok .crcClr := by rfl
theorem test_decode_crcUpd : decode 0b00010001_10100101_00000000#24 = .ok (.crcUpd 0xA5#8) := by rfl
theorem test_decode_crcRd : decode 0b00010010_00000000_00000000#24 = .ok .crcRd := by rfl
theorem test_decode_pktInit : decode 0b00100000_11111111_00000000#24 = .ok (.pktInit 0xFF#8) := by rfl
theorem test_decode_pktFill : decode 0b00100001_00000000_00000000#24 = .ok .pktFill := by rfl
theorem test_decode_pktPoke : decode 0b00100010_01111111_10000000#24 = .ok (.pktPoke 127#7 0x80#8) := by rfl
theorem test_decode_pktPeek : decode 0b00100011_01111111_00000000#24 = .ok (.pktPeek 127#7) := by rfl
theorem test_decode_pktCsum : decode 0b00100100_00000000_00000000#24 = .ok .pktCsum := by rfl
theorem test_decode_pktNext : decode 0b00100101_00000000_00000000#24 = .ok .pktNext := by rfl
theorem test_decode_pktEmit : decode 0b00100110_00000000_00000000#24 = .ok .pktEmit := by rfl
theorem test_decode_unknown : decode 0xFF0000#24 = .error .unknownOpcode := by rfl
theorem test_decode_zero : decode 0x000000#24 = .error .unknownOpcode := by rfl
theorem test_decode_unused : decode 0x2400FF#24 = .error .unusedBits := by rfl
theorem test_decode_index : decode 0x238000#24 = .error .indexRange := by rfl
theorem test_decode_peek_b : decode 0x237FFF#24 ≠ .ok (.pktPeek 127#7) := by decide
theorem test_encode_poke : encode (.pktPoke 0#7 0x4A#8) = 0x22004A#24 := by decide
theorem test_table_word : decodeTableWord 24 0x237F00 = some (.pktPeek 127#7) := by decide
/-- "HELLO" (vector V20). -/
def hello : SrcBytes := ⟨[0x48#8, 0x45#8, 0x4C#8, 0x4C#8, 0x4F#8], by decide⟩

theorem test_asm_fill : asmLine "PKT.FILL <- SRC(48 45 4C 4C 4F, eos=1)" =
    some (.pktFill, some (.data hello true)) := by decide +kernel
theorem test_asm_poke : asmLine "PKT.POKE 0, 'J' ; mutate" = some (.pktPoke 0#7 0x4A#8, none) := by decide +kernel
theorem test_text_poke : (Instr.pktPoke 127#7 0x80#8).text = "PKT.POKE 127, 128" := by decide +kernel

/-! ### States built for the tests, and how a test reads an outcome -/

/-- `n` zero bytes. -/
def zeros (n : Nat) (h : (List.replicate n 0x00#8).length ≤ 128) : SrcBytes := ⟨List.replicate n 0x00#8, h⟩

def none0 : SrcBytes := zeros 0 (by decide +kernel)
def zeros127 : SrcBytes := zeros 127 (by decide +kernel)
def zeros128 : SrcBytes := zeros 128 (by decide +kernel)

def running : State := State.reset

def halted : State := { State.reset with err := 2#4 }

/-- The block `LOADED` with a payload. -/
def loaded (bytes : List Byte) : State :=
  { State.reset with filled := true, pay := Memory.ofBytesFrom 0 bytes }

/-- HELLO padded to 128 bytes. -/
def helloBytes : List Byte := hello.bytes ++ List.replicate 123 0xFF#8

/-- The end of vector V30. -/
def loadedHello : State := loaded helloBytes

/-- The end of vector V31. -/
def framedHello : State := { loadedHello with valid := true, chk := some 0x01E3#16, crc := 0x01E3#16 }

/-- The block `FRAMED` with 128 zeros, whose checksum is `0x0000` (40_crc.md R91). -/
def framedZeros : State := { loaded zeros128.bytes with valid := true, chk := some 0x0000#16 }

/-- A state to whose block the host's next inputs are given. -/
def withInputs (inputs : List HostInput) (s : State) : State := { s with inputs := inputs }

/-- A state whose source gives these answers. -/
def withSrc (src : List SrcResponse) (s : State) : State := { s with src := src }

/-- A `PKT.FILL` waits for the source. -/
def waitingFill : State := { running with busy := some 0x210000#24, srcReq := true }

/-- A `PKT.EMIT` waits for the sink. -/
def waitingEmit : State := { framedHello with busy := some 0x260000#24, sinkReady := false }

/-- The next state, if there is one. -/
def after : Out → Option State
  | .next t => some t
  | .fault _ => none
  | .refused _ => none

theorem next_any {o : Out} {p : State → Bool} (h : (after o).any p = true) :
    ∃ t, o = .next t ∧ p t = true := by
  cases o with
  | next t => exact ⟨t, rfl, h⟩
  | fault r => exact absurd h Bool.false_ne_true
  | refused r => exact absurd h Bool.false_ne_true

theorem next_of {o : Out} {p : State → Prop} [DecidablePred p] (h : (after o).any (fun t => decide (p t)) = true) :
    ∃ t, o = .next t ∧ p t := by
  obtain ⟨t, ho, hp⟩ := next_any h
  exact ⟨t, ho, of_decide_eq_true hp⟩

/-- The invariant's fields as one test. -/
def invTest (s : State) : Bool :=
  Memory.wf s.pay && (s.filled || s.pay.isEmpty) && (!s.filled || (payload s).isSome) && (!s.valid || s.filled) &&
  (s.valid || s.chk == none) && (!s.valid || s.chk == (payload s).map crc16) &&
  (s.err == 0#4 || s.err == 1#4 || s.err == 2#4 || s.err == 3#4) && (s.err != 1#4 || !s.valid) &&
  (s.err != 2#4 || !s.filled) && (s.busy.isSome || !s.srcReq) &&
  (s.busy.all fun w => s.err == 0#4 &&
    ((w == 0x210000#24 && s.srcReq) || (w == 0x260000#24 && !s.srcReq && s.valid)))

theorem inv_of {s : State} (h : invTest s = true) : StateInv s := by
  simp only [invTest, Bool.and_eq_true, Bool.or_eq_true, beq_iff_eq, bne_iff_ne, Bool.not_eq_true', ne_eq] at h
  obtain ⟨⟨⟨⟨⟨⟨⟨⟨⟨⟨h1, h2⟩, h3⟩, h4⟩, h5⟩, h6⟩, h7⟩, h8⟩, h9⟩, h10⟩, h11⟩ := h
  constructor
  · exact h1
  · intro hf; simpa [hf] using h2
  · intro hf; simpa [hf] using h3
  · intro hv; simpa [hv] using h4
  · intro hv; simpa [hv] using h5
  · intro hv; simpa [hv] using h6
  · simpa only [or_assoc] using h7
  · intro he; simpa [he] using h8
  · intro he; simpa [he] using h9
  · intro hb; simpa [hb] using h10
  · intro w hw; simpa [hw, and_assoc] using h11

/-! ### One step of each operation -/

/-- V66. -/
theorem test_sysRst : ∃ t, exec .sysRst { framedZeros with blk := 7#8, crc := 0x1234#16 } = .next t ∧
    t.blk = 0x01#8 ∧ t.pay = [] ∧ t.chk = none ∧ t.crc = 0x0000#16 ∧ t.lifecycle = .empty :=
  next_of (by decide +kernel)

/-- V94: a word with the `op` of SYS.RST and operand bits does not reset. -/
theorem test_sysRst_word : ∃ t, step { State.reset with err := 3#4, inputs := [.cmd 0x010001#24] } = .next t ∧
    t.err = 3#4 ∧ t.rsps = [⟨3#4, 0x0000#16⟩] := next_of (by decide +kernel)

/-- V64. -/
theorem test_sysStat_halted : ∃ t, exec .sysStat halted = .next t ∧ t.rsps = [⟨0#4, 0x0020#16⟩] :=
  next_of (by decide +kernel)

/-- V62. -/
theorem test_sysStat_framed : ∃ t, exec .sysStat framedZeros = .next t ∧ t.rsps = [⟨0#4, 0x0003#16⟩] :=
  next_of (by decide +kernel)

/-- V14. -/
theorem test_crcClr : ∃ t, exec .crcClr { running with crc := 0x31C3#16 } = .next t ∧ t.crc = 0x0000#16 :=
  next_of (by decide +kernel)

/-- V12. -/
theorem test_crcUpd : ∃ t, exec (.crcUpd 0x32#8) { running with crc := 0x2672#16 } = .next t ∧ t.crc = 0x20B5#16 :=
  next_of (by decide +kernel)

/-- V17. -/
theorem test_crcUpd_ffff : ∃ t, exec (.crcUpd 0x00#8) { running with crc := 0xFFFF#16 } = .next t ∧
    t.crc = 0xE1F0#16 := next_of (by decide +kernel)

/-- V13. -/
theorem test_crcRd : ∃ t, exec .crcRd { running with crc := 0x31C3#16 } = .next t ∧
    t.rsps = [⟨0#4, 0x31C3#16⟩] := next_of (by decide +kernel)

/-- V3: the CRC of "123456789". -/
theorem test_crc_check : crc16 [0x31#8, 0x32#8, 0x33#8, 0x34#8, 0x35#8, 0x36#8, 0x37#8, 0x38#8, 0x39#8] =
    0x31C3#16 := by decide +kernel

/-- V6, R83: the serial and the table forms of the byte step. -/
theorem test_crc_forms : crc16ByteSerial 0x1234#16 0x56#8 = 0x3C40#16 ∧ crc16ByteTable 0x1234#16 0x56#8 = 0x3C40#16 := by
  decide +kernel

/-- S3 (c). -/
theorem test_swap16 : swap16 0x01E3#16 = 0xE301#16 := by decide

/-- V42: the packet is emptied and the number taken. -/
theorem test_pktInit : ∃ t, exec (.pktInit 0x00#8) framedZeros = .next t ∧
    t.blk = 0x00#8 ∧ t.lifecycle = .empty ∧ t.chk = none := next_of (by decide +kernel)

/-- V30. -/
theorem test_pktFill : ∃ t, exec .pktFill (withSrc [.data hello true] running) = .next t ∧
    t.lifecycle = .loaded ∧ t.src = [] ∧ t.rsps = [⟨0#4, 0x0005#16⟩] ∧ Memory.read t.pay 4 = some 0x4F#8 ∧
    Memory.read t.pay 5 = some 0xFF#8 ∧ Memory.read t.pay 127 = some 0xFF#8 ∧ Memory.read t.pay 128 = none :=
  next_of (by decide +kernel)

/-- V77: a transient short read. -/
theorem test_pktFill_short : ∃ t, exec .pktFill (withSrc [.data hello false] framedZeros) = .next t ∧
    t.blk = 0x01#8 ∧ t.pay = [] ∧ t.filled = false ∧ t.err = 2#4 ∧ t.rsps = [⟨2#4, 0x0000#16⟩] :=
  next_of (by decide +kernel)

/-- V32. -/
theorem test_pktPoke : ∃ t, exec (.pktPoke 0#7 0x4A#8) framedHello = .next t ∧
    Memory.read t.pay 0 = some 0x4A#8 ∧ Memory.read t.pay 1 = some 0x45#8 ∧ t.crc = 0x01E3#16 ∧ t.chk = none ∧
    t.lifecycle = .loaded := next_of (by decide +kernel)

/-- V76. -/
theorem test_pktPoke_empty : ∃ t, exec (.pktPoke 0#7 0x00#8) running = .next t ∧ t.err = 1#4 ∧ t.pay = [] :=
  next_of (by decide +kernel)

/-- V35. -/
theorem test_pktPeek : ∃ t, exec (.pktPeek 4#7) framedHello = .next t ∧ t.rsps = [⟨0#4, 0x004F#16⟩] :=
  next_of (by decide +kernel)

/-- V37. -/
theorem test_pktPeek_last : ∃ t, exec (.pktPeek 127#7) framedHello = .next t ∧ t.rsps = [⟨0#4, 0x00FF#16⟩] :=
  next_of (by decide +kernel)

/-- V31. -/
theorem test_pktCsum : ∃ t, exec .pktCsum loadedHello = .next t ∧
    t.crc = 0x01E3#16 ∧ t.chk = some 0x01E3#16 ∧ t.lifecycle = .framed := next_of (by decide +kernel)

/-- V40: 255 is followed by 0. -/
theorem test_pktNext : ∃ t, exec .pktNext { framedZeros with blk := 0xFF#8 } = .next t ∧
    t.blk = 0x00#8 ∧ t.lifecycle = .empty ∧ t.rsps = [⟨0#4, 0x0000#16⟩] := next_of (by decide +kernel)

/-- V38, V20. -/
theorem test_pktEmit : ∃ t, exec .pktEmit framedHello = .next t ∧
    t.tx = [0x01#8, 0x01#8, 0xFE#8, 0x48#8, 0x45#8, 0x4C#8, 0x4C#8, 0x4F#8] ++ List.replicate 123 0xFF#8 ++
      [0x01#8, 0xE3#8] := next_of (by decide +kernel)

/-- V71. -/
theorem test_pktEmit_stale : ∃ t, exec .pktEmit loadedHello = .next t ∧ t.err = 1#4 ∧ t.tx = [] :=
  next_of (by decide +kernel)

/-! ### The step -/

/-- V91: a halted block refuses a reserved word with the original code. -/
theorem test_step_refused : ∃ t, step { State.reset with err := 1#4, inputs := [.cmd 0xFFFFFF#24] } = .next t ∧
    t.err = 1#4 ∧ t.rsps = [⟨1#4, 0x0000#16⟩] ∧ t.inputs = [] := next_of (by decide +kernel)

/-- V68: `rst` between operations gives no response. -/
theorem test_step_rst : ∃ t, step { framedZeros with err := 3#4, inputs := [.rst] } = .next t ∧
    t.err = 0#4 ∧ t.lifecycle = .empty ∧ t.rsps = [] := next_of (by decide +kernel)

/-- The word placed by `withFetchWord` is the one the next step runs (V11). -/
theorem test_withFetchWord : ∃ t, step (State.reset.withFetchWord 24 0x113100) = .next t ∧
    t.crc = 0x2672#16 ∧ t.inputs = [] ∧ t.busy = none ∧ t.rsps = [⟨0#4, 0x0000#16⟩] := next_of (by decide +kernel)

/-- 41_packet.md R111, 70_reset_and_hazards.md R202: with no answer of the source there is no response; R12: a command
that waits keeps the port busy. -/
theorem test_fill_waits : ∃ t, step (withInputs [.cmd 0x210000#24, .rst] running) = .next t ∧
    t.busy = some 0x210000#24 ∧ t.srcReq = true ∧ t.rsps = [] ∧ t.inputs = [.rst] := next_of (by decide +kernel)

/-! ### Witnesses: states and operands that meet the hypotheses of each statement, clause by clause -/

/-- States that meet the invariant: each lifecycle state, and a command that waits. -/
theorem inv_running : StateInv running := inv_of (by decide +kernel)
theorem inv_loaded : StateInv loadedHello := inv_of (by decide +kernel)
theorem inv_framed : StateInv framedHello := inv_of (by decide +kernel)
theorem inv_waitingFill : StateInv waitingFill := inv_of (by decide +kernel)
theorem inv_waitingEmit : StateInv waitingEmit := inv_of (by decide +kernel)

theorem witness_EncodeOfDecode : decode 0x227F80#24 = .ok (.pktPoke 127#7 0x80#8) := by rfl

theorem witness_DecodeSelectsRow : 0x237F00#24 &&& Op.pktPeek.maskBits = Op.pktPeek.matchBits ∧
    ∀ o : Op, 0x238000#24 &&& o.maskBits ≠ o.matchBits := by
  refine ⟨by decide, fun o => ?_⟩
  cases o <;> decide

theorem witness_StepRunsDecodedCommand :
    (withInputs [.cmd 0x120000#24] running).busy = none ∧
    (withInputs [.cmd 0x120000#24] running).inputs = .cmd 0x120000#24 :: [] ∧ decode 0x120000#24 = .ok .crcRd :=
  ⟨rfl, rfl, rfl⟩

theorem witness_StepContinuesCommandInProgress :
    waitingFill.busy = some 0x210000#24 ∧ decode 0x210000#24 = .ok .pktFill := ⟨rfl, rfl⟩

theorem witness_StepWithoutInputIdles : running.busy = none ∧ running.inputs = [] := ⟨rfl, rfl⟩

theorem witness_ReservedWordRaisesIllegalCommand :
    (withInputs [.cmd 0x238000#24] running).busy = none ∧
    (withInputs [.cmd 0x238000#24] running).inputs = .cmd 0x238000#24 :: [] ∧ running.err = 0#4 ∧
    ∀ o : Op, 0x238000#24 &&& o.maskBits ≠ o.matchBits :=
  ⟨rfl, rfl, rfl, witness_DecodeSelectsRow.2⟩

/-- A legal word and a reserved one that has the `op` of SYS.RST. -/
theorem witness_HaltedBlockRefuses :
    halted.busy = none ∧ halted.err ≠ 0#4 ∧
    (withInputs [.cmd 0x210000#24] halted).inputs = .cmd 0x210000#24 :: [] ∧
    (0x210000#24 ≠ 0x010000#24 ∧ 0x210000#24 ≠ 0x020000#24) ∧
    (withInputs [.cmd 0x010001#24] halted).inputs = .cmd 0x010001#24 :: [] ∧
    (0x010001#24 ≠ 0x010000#24 ∧ 0x010001#24 ≠ 0x020000#24) := by decide

theorem witness_BothResetsHaveOneEffect :
    halted.busy = none ∧ (withInputs [.rst] halted).inputs = .rst :: [] ∧
    ∃ t, exec .sysRst halted = .next t ∧ t.err = 0#4 := ⟨rfl, rfl, next_of (by decide)⟩

theorem witness_UnansweredOperationsWait :
    (running.err = 0#4 ∧ running.src = []) ∧
    (waitingEmit.err = 0#4 ∧ waitingEmit.valid = true ∧ payload waitingEmit = some helloBytes ∧
      waitingEmit.chk = some 0x01E3#16 ∧ waitingEmit.sinkReady = false) := by decide +kernel

/-- A command answered at once, one that faults, SYS.STAT of a halted block, and a PKT.FILL that waits. -/
theorem witness_OneResponsePerCommand :
    (∃ t, step (withInputs [.cmd 0x120000#24] running) = .next t ∧ t.busy = none ∧ t.err = 0#4) ∧
    (∃ t, step (withInputs [.cmd 0x220000#24] running) = .next t ∧ t.busy = none ∧ t.err = 1#4) ∧
    (∃ t, step (withInputs [.cmd 0x020000#24] halted) = .next t ∧ t.busy = none ∧ t.err = 2#4) ∧
    (∃ t, step (withInputs [.cmd 0x210000#24] running) = .next t ∧ t.busy = some 0x210000#24 ∧ t.rsps = []) :=
  ⟨next_of (by decide), next_of (by decide), next_of (by decide), next_of (by decide)⟩

/-- ERR kept, set to each code, and cleared by the command in progress, by `rst`, and by the word of SYS.RST. -/
theorem witness_ErrKeepsFirstFault :
    (∃ t, step (withInputs [.cmd 0xFF0000#24] halted) = .next t ∧ t.err = halted.err) ∧
    (∃ t, step (withInputs [.cmd 0x220000#24] running) = .next t ∧ t.err = 1#4) ∧
    (∃ t, step (withSrc [.fail] waitingFill) = .next t ∧ t.err = 2#4) ∧
    (∃ t, step (withInputs [.cmd 0xFF0000#24] running) = .next t ∧ t.err = 3#4) ∧
    (∃ t, step { halted with busy := some 0x010000#24 } = .next t ∧ t.err ≠ halted.err) ∧
    (∃ t, step (withInputs [.rst] halted) = .next t ∧ t.err ≠ halted.err) ∧
    (∃ t, step (withInputs [.cmd 0x010000#24] halted) = .next t ∧ t.err ≠ halted.err) :=
  ⟨next_of (by decide), next_of (by decide), next_of (by decide), next_of (by decide), next_of (by decide),
    next_of (by decide), next_of (by decide)⟩

theorem witness_FaultConditions :
    running.err = 0#4 ∧
    (∃ t, exec .pktEmit running = .next t ∧ t.err = 1#4) ∧
    (∃ t, exec (.pktPeek 0#7) running = .next t ∧ t.err = 1#4) ∧
    (∃ t, exec .pktFill (withSrc [.fail] running) = .next t ∧ t.err = 2#4) ∧
    (∃ t, exec .pktFill (withSrc [.data zeros127 false] running) = .next t ∧ t.err = 2#4) ∧
    (∃ t, exec .pktFill (withSrc [.data zeros128 false] running) = .next t ∧ t.err = 0#4) :=
  ⟨rfl, next_of (by decide), next_of (by decide), next_of (by decide), next_of (by decide +kernel),
    next_of (by decide +kernel)⟩

theorem witness_SysRstResult :
    (Instr.pktPeek 0#7 ≠ .sysRst ∧ halted.err ≠ 0#4 ∧ ∃ t, exec (.pktPeek 0#7) halted = .next t ∧ t.err = 2#4) ∧
    (0x01#8 ≠ 0#8 ∨ 0x00#8 ≠ 0#8) ∧ (0x00#8 ≠ 0#8 ∨ 0xFF#8 ≠ 0#8) ∧ running.err = 0#4 :=
  ⟨⟨by decide, by decide, next_of (by decide)⟩, by decide, by decide, rfl⟩

theorem witness_ResetValues :
    (∃ t, exec .sysRst halted = .next t ∧ t.err = 0#4) ∧
    ((withInputs [.rst] framedHello).busy = none ∧ (∃ rest, (withInputs [.rst] framedHello).inputs = .rst :: rest) ∧
      ∃ t, step (withInputs [.rst] framedHello) = .next t ∧ t.err = 0#4) :=
  ⟨next_of (by decide), rfl, ⟨[], rfl⟩, next_of (by decide +kernel)⟩

/-- Each code of ERR with each value of the flags that the invariant allows beside it. -/
theorem witness_SysStatResult :
    StateInv running ∧ StateInv loadedHello ∧ StateInv framedHello ∧
    StateInv { running with err := 1#4 } ∧ StateInv { loadedHello with err := 1#4 } ∧
    StateInv { running with err := 2#4 } ∧
    StateInv { running with err := 3#4 } ∧ StateInv { loadedHello with err := 3#4 } ∧
    StateInv { framedHello with err := 3#4 } :=
  ⟨inv_running, inv_loaded, inv_framed, inv_of (by decide +kernel), inv_of (by decide +kernel),
    inv_of (by decide +kernel), inv_of (by decide +kernel), inv_of (by decide +kernel), inv_of (by decide +kernel)⟩

theorem witness_CrcClrResult : running.err = 0#4 ∧ halted.err ≠ 0#4 := by decide
theorem witness_CrcUpdResult : running.err = 0#4 ∧ halted.err ≠ 0#4 := by decide
theorem witness_CrcRdResult : running.err = 0#4 ∧ halted.err ≠ 0#4 := by decide
theorem witness_PktInitResult : running.err = 0#4 ∧ halted.err ≠ 0#4 := by decide
theorem witness_PktNextResult : running.err = 0#4 ∧ halted.err ≠ 0#4 := by decide

theorem witness_CrcIsLinear : hello.bytes.length = [0x00#8, 0x01#8, 0x80#8, 0xFF#8, 0x7F#8].length := by decide

/-- The end of the source confirmed after 0 and after 127 bytes, and full reads with either `eos`. -/
theorem witness_PktFillLoadsPayload :
    running.err = 0#4 ∧
    (withSrc [.data none0 true] running).src = .data none0 true :: [] ∧
    (none0.bytes.length = 128 ∨ true = true) ∧ (zeros127.bytes.length = 128 ∨ true = true) ∧
    (zeros128.bytes.length = 128 ∨ false = true) ∧ (zeros128.bytes.length = 128 ∨ true = true) := by decide +kernel

theorem witness_PktFillFaults :
    running.err = 0#4 ∧ (withSrc [.fail] running).src = .fail :: [] ∧
    (withSrc [.data none0 false] running).src = .data none0 false :: [] ∧ none0.bytes.length < 128 ∧
    (withSrc [.data zeros127 false] running).src = .data zeros127 false :: [] ∧ zeros127.bytes.length < 128 ∧
    halted.err ≠ 0#4 := by decide +kernel

theorem witness_PktPokeResult :
    (0x80#8).msb = true ∧ (0xFF#8).msb = true ∧ (loadedHello.err = 0#4 ∧ loadedHello.filled = true) ∧
    (running.err = 0#4 ∧ running.filled = false) ∧ halted.err ≠ 0#4 := by decide +kernel

theorem witness_PktPeekResult :
    ((0x80#8).msb = true ∨ 0x00#8 ≠ 0#8) ∧ ((0x7F#8).msb = true ∨ 0x01#8 ≠ 0#8) ∧
    (loadedHello.err = 0#4 ∧ loadedHello.filled = true ∧ Memory.read loadedHello.pay (0#7).toNat = some 0x48#8 ∧
      Memory.read loadedHello.pay (127#7).toNat = some 0xFF#8) ∧
    (running.err = 0#4 ∧ running.filled = false) ∧ halted.err ≠ 0#4 := by decide +kernel

theorem witness_PktCsumResult :
    (loadedHello.err = 0#4 ∧ loadedHello.filled = true ∧ helloBytes.length = 128 ∧
      ∀ k, k < 128 → Memory.read loadedHello.pay k = helloBytes[k]?) ∧
    (running.err = 0#4 ∧ running.filled = false) ∧ halted.err ≠ 0#4 := by decide +kernel

theorem witness_PktEmitResult :
    (framedHello.err = 0#4 ∧ framedHello.valid = true ∧ framedHello.sinkReady = true ∧ helloBytes.length = 128 ∧
      (∀ k, k < 128 → Memory.read framedHello.pay k = helloBytes[k]?) ∧ framedHello.chk = some 0x01E3#16) ∧
    (loadedHello.err = 0#4 ∧ loadedHello.valid = false) ∧ halted.err ≠ 0#4 := by decide +kernel

theorem witness_StaleChecksumIsNeverEmitted :
    (loadedHello.err = 0#4 ∧ loadedHello.valid = false) ∧
    (∃ t, exec .pktFill (withSrc [.data hello true] framedHello) = .next t ∧ t.busy = none ∧ t.err = 0#4) ∧
    (withSrc [.data hello true] framedHello).src ≠ [] ∧
    (∃ t, exec .pktNext framedHello = .next t ∧ t.busy = none ∧ t.err = 0#4) ∧
    (∃ t, exec (.pktInit 9#8) framedHello = .next t ∧ t.busy = none ∧ t.err = 0#4) ∧
    (∃ t, exec (.pktPoke 127#7 0xFF#8) framedHello = .next t ∧ t.busy = none ∧ t.err = 0#4) ∧
    (∃ t, exec .sysRst framedHello = .next t ∧ t.busy = none ∧ t.err = 0#4) :=
  ⟨⟨rfl, rfl⟩, next_of (by decide +kernel), by decide, next_of (by decide +kernel), next_of (by decide +kernel),
    next_of (by decide +kernel), next_of (by decide +kernel)⟩

theorem witness_RepeatedEmitSendsSameFrame :
    (∃ t, exec .pktEmit framedHello = .next t ∧ t.tx ≠ framedHello.tx) ∧
    ∃ t, step (withInputs [.rst] framedHello) = .next t ∧ t.tx = framedHello.tx :=
  ⟨next_of (by decide +kernel), next_of (by decide +kernel)⟩

/-- Two states that agree on BLK and PAY and differ in the accumulator and in what was sent before. -/
theorem witness_FrameDependsOnBlkAndPayOnly :
    StateInv framedHello ∧ StateInv { framedHello with crc := 0#16, tx := [0x55#8] } ∧
    framedHello.blk = { framedHello with crc := 0#16, tx := [0x55#8] }.blk ∧
    framedHello.pay = { framedHello with crc := 0#16, tx := [0x55#8] }.pay ∧
    (∃ t, exec .pktEmit framedHello = .next t ∧ t.tx ≠ []) ∧
    (∃ t, exec .pktEmit { framedHello with crc := 0#16, tx := [0x55#8] } = .next t ∧ t.tx ≠ [0x55#8]) :=
  ⟨inv_framed, inv_of (by decide +kernel), rfl, rfl, next_of (by decide +kernel), next_of (by decide +kernel)⟩

theorem witness_EmittedFramesAreSound :
    StateInv framedHello ∧ ∃ t, exec .pktEmit framedHello = .next t ∧ t.tx ≠ framedHello.tx :=
  ⟨inv_framed, witness_RepeatedEmitSendsSameFrame.1⟩

/-- The mutation of vectors V32 to V34. -/
theorem witness_RecomputedChecksumRoundTrips :
    StateInv framedHello ∧ framedHello.err = 0#4 ∧ framedHello.valid = true ∧
    framedHello.chk = some 0x01E3#16 ∧ Memory.read framedHello.pay (0#7).toNat = some 0x48#8 ∧
    ∃ s1 s2 s3 s4, exec (.pktPoke 0#7 0x4A#8) framedHello = .next s1 ∧ exec .pktCsum s1 = .next s2 ∧
      exec (.pktPoke 0#7 0x48#8) s2 = .next s3 ∧ exec .pktCsum s3 = .next s4 := by
  obtain ⟨s1, h1, k1⟩ := next_any (o := exec (.pktPoke 0#7 0x4A#8) framedHello)
    (p := fun t => (after (exec .pktCsum t)).any fun t => (after (exec (.pktPoke 0#7 0x48#8) t)).any fun t =>
      (after (exec .pktCsum t)).any fun _ => true) (by decide +kernel)
  obtain ⟨s2, h2, k2⟩ := next_any k1
  obtain ⟨s3, h3, k3⟩ := next_any k2
  obtain ⟨s4, h4, _⟩ := next_any k3
  exact ⟨inv_framed, rfl, rfl, rfl, rfl, s1, s2, s3, s4, h1, h2, h3, h4⟩

/-- An operation outside all the lists, and one inside most of them. -/
theorem witness_AccessMatrix :
    (∃ t, exec .sysStat framedHello = .next t ∧ t.err = 0#4) ∧
    (Op.sysStat ∉ [Op.sysRst, .pktInit, .pktFill, .pktPoke, .pktCsum, .pktNext]) ∧
    (∃ t, exec (.pktPoke 127#7 0x00#8) framedHello = .next t ∧ Memory.read t.pay 127 = some 0x00#8) ∧ 0 ≠ (127#7).toNat :=
  ⟨next_of (by decide +kernel), by decide, next_of (by decide +kernel), by decide⟩

theorem witness_LifecycleTableHolds :
    (StateInv (withSrc [.fail] framedHello) ∧ (withSrc [.fail] framedHello).src ≠ [] ∧
      ∃ t, exec .pktFill (withSrc [.fail] framedHello) = .next t ∧ t.lifecycle = .halted) ∧
    (StateInv loadedHello ∧ ∃ t, exec .pktCsum loadedHello = .next t ∧ t.lifecycle = .framed) :=
  ⟨⟨inv_of (by decide +kernel), by decide, next_of (by decide +kernel)⟩, inv_loaded, next_of (by decide +kernel)⟩

/-- A PKT.EMIT taken now, and one that waited. -/
theorem witness_TxGrowsByWholeFrames :
    (∃ t, step (withInputs [.cmd 0x260000#24] framedHello) = .next t ∧ t.tx ≠ []) ∧
    (∃ t, step { waitingEmit with sinkReady := true } = .next t ∧ t.tx ≠ []) :=
  ⟨next_of (by decide +kernel), next_of (by decide +kernel)⟩

theorem witness_StepKeepsInvariant :
    (StateInv (withSrc [.data hello true] waitingFill) ∧
      ∃ t, step (withSrc [.data hello true] waitingFill) = .next t ∧ t.filled = true) ∧
    (StateInv (withInputs [.rst] framedHello) ∧
      ∃ t, step (withInputs [.rst] framedHello) = .next t ∧ t.filled = false) :=
  ⟨⟨inv_of (by decide +kernel), next_of (by decide +kernel)⟩, inv_of (by decide +kernel), next_of (by decide +kernel)⟩

theorem witness_StepAlwaysHasNext :
    StateInv waitingFill ∧ StateInv waitingEmit ∧ StateInv (withInputs [.cmd 0x240000#24] loadedHello) :=
  ⟨inv_waitingFill, inv_waitingEmit, inv_of (by decide +kernel)⟩

theorem witness_CommandsAreAnswered :
    StateInv { framedHello with inputs := [.cmd 0x260000#24], src := [.fail] } ∧
    framedHello.busy = none ∧ ({ framedHello with src := [SrcResponse.fail] } : State).src ≠ [] ∧
    framedHello.sinkReady = true := ⟨inv_of (by decide +kernel), rfl, by decide, rfl⟩

/-- The empty image, and an image of 129 bytes: two packets. -/
theorem witness_ImageIsEmittedFrameByFrame :
    running.err = 0#4 ∧ running.busy = none ∧ running.sinkReady = true ∧
    (∃ s : State, s.inputs = imageCommands (packetCount ([] : List Byte).length) ++ [.rst] ∧
      s.src = imageAnswers [] (fun _ => false) ++ [.fail] ∧ s.err = 0#4 ∧ s.busy = none ∧ s.sinkReady = true) ∧
    (∃ s : State, s.inputs = imageCommands 2 ++ [] ∧ 2 = packetCount (List.replicate 129 0x00#8).length ∧
      s.src = imageAnswers (List.replicate 129 0x00#8) (fun _ => true) ++ [] ∧ s.err = 0#4 ∧ s.busy = none ∧
      s.sinkReady = true) :=
  ⟨rfl, rfl, rfl,
    ⟨{ running with inputs := imageCommands (packetCount 0) ++ [.rst],
                    src := imageAnswers [] (fun _ => false) ++ [.fail] }, rfl, rfl, rfl, rfl, rfl⟩,
    ⟨{ running with inputs := imageCommands 2 ++ [],
                    src := imageAnswers (List.replicate 129 0x00#8) (fun _ => true) ++ [] },
      rfl, by decide +kernel, rfl, rfl, rfl, rfl⟩⟩

end Sys2Proof.Tests
end

section
/-! SUPPORT. How a step, the dispatch and the decoder go in the case that applies: the equations behind `step_cases` and
`dispatch_cases`, and what a legal word of an operation without operands is. -/

namespace Sys2Proof

/-- A word decodes to an instruction only through the row it selects (30_encoding.md R69). -/
theorem selects_of_decode {w : Command} {i : Instr} (h : decode w = .ok i) : i.op.selects w = true := by
  unfold decode at h
  split at h
  · rename_i o ho
    injection h with h
    subst h
    have hop : (o.build w).op = o := by cases o <;> rfl
    rw [hop]
    exact List.find?_some (p := fun o : Op => o.selects w) ho
  · cases h

/-- An operation without operands has one word: its `match` bits (30_encoding.md R66, R68). -/
theorem eq_matchBits_of_decode {w : Command} {i : Instr} (h : decode w = .ok i) (hf : i.op.form = .none) :
    w = i.op.matchBits := by
  have hmask : i.op.maskBits = BitVec.allOnes 24 := by rw [i.op.maskBits_eq, hf]; rfl
  have hsel := selects_of_decode h
  rwa [Op.selects, beq_iff_eq, hmask, BitVec.and_allOnes] at hsel

end Sys2Proof

namespace Sys2Proof.Machine

variable {s : State} {w : Command}

/-- A legal word is executed. -/
theorem dispatch_of_decode {i : Instr} (h : decode w = .ok i) : dispatch w s = exec i s := by
  simp only [dispatch, h]

/-- A command in progress goes on. -/
theorem step_inProgress (h : s.busy = some w) : step s = dispatch w s := by
  simp only [step, runInput, h]

/-- With nothing in progress the command at the head of the host's inputs is taken. -/
theorem step_takeCommand {rest : List HostInput} (hb : s.busy = none) (hi : s.inputs = .cmd w :: rest) :
    step s = dispatch w (takeCommand w rest s) := by
  simp only [step, runInput, hb, hi]

end Sys2Proof.Machine
end

section
/-! SUPPORT. What a command does to the ports of the host: it ends with exactly one response, or it waits (00_scope.md
R12, R13, 70_reset_and_hazards.md R202). -/

namespace Sys2Proof.Machine

/-- The command in progress in `s` has ended in `t` with the one response `r` (R13, 30_encoding.md R67). -/
structure EndsWith (r : Response) (s t : State) : Prop where
  inputs : t.inputs = s.inputs
  busy : t.busy = none
  rsps : t.rsps = s.rsps ++ [r]
  data : r.err ≠ 0#4 → r.data = 0x0000#16

/-- The command in progress in `s` has ended in `t`, and its response carries the new `ERR`. -/
def Answered (s t : State) : Prop := ∃ r, EndsWith r s t ∧ r.err = t.err

/-- The command in progress in `s` is still in progress in `t`, with no response (R202). -/
structure Waits (s t : State) : Prop where
  inputs : t.inputs = s.inputs
  busy : t.busy = s.busy
  rsps : t.rsps = s.rsps

section
variable {s t u : State}

/-- A success ends the command, whatever the operation wrote before (`u`) off the host's ports. -/
theorem respond_endsWith (v : Word) (hi : u.inputs = s.inputs) (hr : u.rsps = s.rsps) :
    EndsWith ⟨0#4, v⟩ s (respond v u) where
  inputs := hi
  busy := rfl
  rsps := by rw [respond_rsps, hr]
  data := fun h => absurd rfl h

theorem respond_answered (v : Word) (he : u.err = 0#4) (hi : u.inputs = s.inputs) (hr : u.rsps = s.rsps) :
    Answered s (respond v u) :=
  ⟨_, respond_endsWith v hi hr, he.symm⟩

theorem raise_answered (f : BlockFault) (hi : u.inputs = s.inputs) (hr : u.rsps = s.rsps) :
    Answered s (raise f u) :=
  ⟨_, { inputs := hi, busy := rfl, rsps := by rw [raise_rsps, hr], data := fun _ => rfl }, rfl⟩

theorem refuse_answered : Answered s (refuse s) :=
  ⟨_, { inputs := rfl, busy := rfl, rsps := rfl, data := fun _ => rfl }, rfl⟩

/-- An operation with no condition but the halted check ends. -/
theorem whenRunning_respond_answered {v : Word} (h : whenRunning s (.next (respond v u)) = .next t)
    (he : u.err = s.err) (hi : u.inputs = s.inputs) (hr : u.rsps = s.rsps) : Answered s t := by
  obtain ⟨-, rfl⟩ | ⟨hz, h⟩ := whenRunning_next h
  · exact refuse_answered
  · injection h with h
    exact h ▸ respond_answered v (he.trans hz) hi hr

/-- Whatever the source answers, `PKT.FILL` ends (41_packet.md R106 to R110). -/
theorem fillWith_answered (r : SrcResponse) (rest : List SrcResponse) (he : s.err = 0#4) :
    Answered s (fillWith r (sourceAnswered rest s)) := by
  obtain ⟨-, d, _, l, -, -, -, h⟩ | ⟨-, h⟩ := fillWith_cases r (sourceAnswered rest s) <;> rw [h]
  · exact respond_answered _ he rfl rfl
  · exact raise_answered _ rfl rfl

/-- What an instruction does to the host's ports: it ends with the new `ERR` in its response; `SYS.STAT` ends with
code 0; `PKT.FILL` waits for a silent source and `PKT.EMIT` for a sink that does not accept. -/
theorem exec_answers {i : Instr} (h : exec i s = .next t) :
    Answered s t ∨ (i = .sysStat ∧ EndsWith ⟨0#4, zext16 s.status⟩ s t) ∨
    (Waits s t ∧ ((i = .pktFill ∧ s.src = []) ∨ (i = .pktEmit ∧ s.sinkReady = false))) := by
  cases i with
  | sysRst =>
    obtain rfl := execSysRst_next h
    exact .inl (respond_answered _ rfl rfl rfl)
  | sysStat =>
    obtain rfl := execSysStat_next h
    exact .inr (.inl ⟨rfl, respond_endsWith _ rfl rfl⟩)
  | crcClr | crcUpd | crcRd | pktInit | pktNext =>
    exact .inl (whenRunning_respond_answered h rfl rfl rfl)
  | pktFill =>
    obtain ⟨-, rfl⟩ | ⟨-, hs, rfl⟩ | ⟨he, r, rest, -, rfl⟩ := execPktFill_next h
    · exact .inl refuse_answered
    · exact .inr (.inr ⟨⟨rfl, rfl, rfl⟩, .inl ⟨rfl, hs⟩⟩)
    · exact .inl (fillWith_answered r rest he)
  | pktPoke k b =>
    obtain ⟨-, rfl⟩ | ⟨-, -, rfl⟩ | ⟨he, -, rfl⟩ := execPktPoke_next h
    · exact .inl refuse_answered
    · exact .inl (raise_answered _ rfl rfl)
    · exact .inl (respond_answered _ he rfl rfl)
  | pktPeek k =>
    obtain ⟨-, rfl⟩ | ⟨-, -, rfl⟩ | ⟨he, -, b, -, rfl⟩ := execPktPeek_next h
    · exact .inl refuse_answered
    · exact .inl (raise_answered _ rfl rfl)
    · exact .inl (respond_answered _ he rfl rfl)
  | pktCsum =>
    obtain ⟨-, rfl⟩ | ⟨-, -, rfl⟩ | ⟨he, -, l, -, rfl⟩ := execPktCsum_next h
    · exact .inl refuse_answered
    · exact .inl (raise_answered _ rfl rfl)
    · exact .inl (respond_answered _ he rfl rfl)
  | pktEmit =>
    obtain ⟨-, rfl⟩ | ⟨-, -, rfl⟩ | ⟨he, -, f, -, ⟨-, rfl⟩ | ⟨hr, rfl⟩⟩ := execPktEmit_next h
    · exact .inl refuse_answered
    · exact .inl (raise_answered _ rfl rfl)
    · exact .inl (respond_answered _ he rfl rfl)
    · exact .inr (.inr ⟨⟨rfl, rfl, rfl⟩, .inr ⟨rfl, hr⟩⟩)

/-- The same for a command word, legal or reserved, with the words of the three operations that stand apart. -/
theorem dispatch_answers {w : Command} (h : dispatch w s = .next t) :
    Answered s t ∨ (w = 0x020000#24 ∧ EndsWith ⟨0#4, zext16 s.status⟩ s t) ∨
    (Waits s t ∧ ((w = 0x210000#24 ∧ s.src = []) ∨ (w = 0x260000#24 ∧ s.sinkReady = false))) := by
  obtain ⟨i, hd, hx⟩ | ⟨_, -, hx⟩ := dispatch_cases w s <;> rw [hx] at h
  · obtain ha | ⟨rfl, hE⟩ | ⟨hw, ⟨rfl, hs⟩ | ⟨rfl, hs⟩⟩ := exec_answers h
    · exact .inl ha
    · exact .inr (.inl ⟨eq_matchBits_of_decode hd rfl, hE⟩)
    · exact .inr (.inr ⟨hw, .inl ⟨eq_matchBits_of_decode hd rfl, hs⟩⟩)
    · exact .inr (.inr ⟨hw, .inr ⟨eq_matchBits_of_decode hd rfl, hs⟩⟩)
  · obtain ⟨-, rfl⟩ | ⟨-, rfl⟩ := reservedWord_next h
    · exact .inl refuse_answered
    · exact .inl (raise_answered _ rfl rfl)

end

end Sys2Proof.Machine
end

section
/-! SUPPORT. Why the model's own stop is never reached: the storage that a set flag promises can be read (00_scope.md
R19, 41_packet.md R101). -/

namespace Sys2Proof.Machine

/-- Storage holds a value wherever a flag says so: the part of `StateInv` that a command in progress needs, and taking
a command keeps. -/
structure Readable (s : State) : Prop where
  payload : s.filled = true → ∃ l, payload s = some l
  frame : s.valid = true → ∃ f, currentFrame s = some f

section
variable {s : State}

theorem StateInv.readable (h : StateInv s) : Readable s where
  payload := fun hf => Option.isSome_iff_exists.mp (h.payFull hf)
  frame := fun hv => by
    obtain ⟨l, hl⟩ := Option.isSome_iff_exists.mp (h.payFull (h.validFilled hv))
    exact ⟨_, currentFrame_eq_some.mpr ⟨l, crc16 l, hl, by rw [h.chkCurrent hv, hl]; rfl, rfl⟩⟩

theorem Readable.takeCommand (h : Readable s) (w : Command) (rest : List HostInput) :
    Readable (takeCommand w rest s) :=
  ⟨h.payload, h.frame⟩

/-- Each byte of a filled payload can be read. -/
theorem Readable.memRead (h : Readable s) (hf : s.filled = true) (i : BitVec 7) : ∃ b, memRead i s = some b := by
  obtain ⟨l, hl⟩ := h.payload hf
  have hi : i.toNat < l.length := by rw [payload_length hl]; exact i.isLt
  exact ⟨l[i.toNat], (payload_read hl i.isLt).trans (List.getElem?_eq_getElem hi)⟩

/-- The halted check never stops the model by itself. -/
theorem whenRunning_hasNext {k : Out} (h : ∃ t, k = .next t) : ∃ t, whenRunning s k = .next t := by
  by_cases he : s.err = 0#4
  · rwa [whenRunning_running he]
  · exact ⟨_, whenRunning_halted he⟩

theorem execPktFill_hasNext : ∃ t, execPktFill s = .next t := by
  apply whenRunning_hasNext
  cases s.src with
  | nil => exact ⟨_, rfl⟩
  | cons r rest => exact ⟨_, rfl⟩

theorem execPktPoke_hasNext (i : BitVec 7) (b : Byte) : ∃ t, execPktPoke i b s = .next t := by
  apply whenRunning_hasNext
  split <;> exact ⟨_, rfl⟩

theorem execPktPeek_hasNext (h : Readable s) (i : BitVec 7) : ∃ t, execPktPeek i s = .next t := by
  apply whenRunning_hasNext
  cases hf : s.filled with
  | false => exact ⟨_, rfl⟩
  | true =>
    obtain ⟨b, hb⟩ := h.memRead hf i
    exact ⟨_, by simp only [hb]; rfl⟩

theorem execPktCsum_hasNext (h : Readable s) : ∃ t, execPktCsum s = .next t := by
  apply whenRunning_hasNext
  cases hf : s.filled with
  | false => exact ⟨_, rfl⟩
  | true =>
    obtain ⟨l, hl⟩ := h.payload hf
    exact ⟨_, by simp only [hl]; rfl⟩

theorem execPktEmit_hasNext (h : Readable s) : ∃ t, execPktEmit s = .next t := by
  apply whenRunning_hasNext
  cases hv : s.valid with
  | false => exact ⟨_, rfl⟩
  | true =>
    obtain ⟨f, hf⟩ := h.frame hv
    simp only [hf]
    cases s.sinkReady <;> exact ⟨_, rfl⟩

theorem exec_hasNext (h : Readable s) (i : Instr) : ∃ t, exec i s = .next t := by
  cases i with
  | sysRst | sysStat => exact ⟨_, rfl⟩
  | crcClr | crcUpd | crcRd | pktInit | pktNext => exact whenRunning_hasNext ⟨_, rfl⟩
  | pktFill => exact execPktFill_hasNext
  | pktPoke k b => exact execPktPoke_hasNext k b
  | pktPeek k => exact execPktPeek_hasNext h k
  | pktCsum => exact execPktCsum_hasNext h
  | pktEmit => exact execPktEmit_hasNext h

theorem dispatch_hasNext (h : Readable s) (w : Command) : ∃ t, dispatch w s = .next t := by
  obtain ⟨i, -, hx⟩ | ⟨_, -, hx⟩ := dispatch_cases w s <;> rw [hx]
  · exact exec_hasNext h i
  · exact whenRunning_hasNext ⟨_, rfl⟩

theorem step_hasNext (h : Readable s) : ∃ t, step s = .next t := by
  obtain ⟨w, -, hx⟩ | ⟨-, -, hx⟩ | ⟨-, rest, -, hx⟩ | ⟨-, w, rest, -, hx⟩ := step_cases s <;> rw [hx]
  · exact dispatch_hasNext h w
  · exact ⟨_, rfl⟩
  · exact ⟨_, rfl⟩
  · exact dispatch_hasNext (h.takeCommand w rest) w

end

end Sys2Proof.Machine
end

section
/-! SUPPORT. The two bytes of a 16-bit value (00_scope.md R18, 20_memory.md R45 to R47). -/

namespace Sys2Proof.Machine

@[simp] theorem hiByte_append (a b : Byte) : hiByte (a ++ b) = a :=
  BitVec.extractLsb'_append_eq_left

@[simp] theorem loByte_append (a b : Byte) : loByte (a ++ b) = b :=
  BitVec.extractLsb'_append_eq_right

/-- A 16-bit value is its high byte before its low byte. -/
theorem hiByte_append_loByte (v : Word) : hiByte v ++ loByte v = v :=
  BitVec.extractLsb'_append_extractLsb' (w := 8) (len := 8)

theorem hiByte_mul_add_loByte (v : Word) : (hiByte v).toNat * 256 + (loByte v).toNat = v.toNat := by
  have hv := v.isLt
  simp only [hiByte, loByte, BitVec.extractLsb'_toNat, Nat.shiftRight_eq_div_pow]
  omega

end Sys2Proof.Machine
end

section
/-! The statements of 00_scope.md. -/

namespace Sys2Proof.Machine

/-- Settles O7: with nothing in progress the step dispatches the word taken. -/
theorem stepRunsDecodedCommand : Obligations.StepRunsDecodedCommand :=
  fun _ _ _ _ hb hi hd => (step_takeCommand hb hi).trans (dispatch_of_decode hd)

/-- Settles O8: with a command in progress the step dispatches its word again. -/
theorem stepContinuesCommandInProgress : Obligations.StepContinuesCommandInProgress :=
  fun _ _ _ hb hd => (step_inProgress hb).trans (dispatch_of_decode hd)

/-- Settles O29: a 16-bit value is its two bytes put together, and `swap16` puts them together in the other order. -/
theorem swapAndByteOrder : Obligations.SwapAndByteOrder := by
  intro v
  have hhi : hiByte (swap16 v) = loByte v := hiByte_append _ _
  have hlo : loByte (swap16 v) = hiByte v := loByte_append _ _
  refine ⟨hhi, hlo, ?_, hiByte_mul_add_loByte v⟩
  rw [swap16, hhi, hlo, hiByte_append_loByte]

/-- Settles O15, from what the dispatch of any word does to the host's ports. -/
theorem oneResponsePerCommand : Obligations.OneResponsePerCommand := by
  intro s t w rest hb hi h
  rw [step_takeCommand hb hi] at h
  obtain ⟨r, hE, hr⟩ | ⟨hw, hE⟩ | ⟨hW, hw⟩ := dispatch_answers h
  · exact ⟨hE.inputs, .inl ⟨hE.busy, r, hE.rsps, hE.data, .inl hr⟩⟩
  · exact ⟨hE.inputs, .inl ⟨hE.busy, _, hE.rsps, hE.data, .inr ⟨hw, rfl⟩⟩⟩
  · exact ⟨hW.inputs, .inr ⟨hW.busy, hW.rsps, hw.imp And.left And.left⟩⟩

/-- Settles O48: the invariant makes readable whatever a set flag lets an operation read. -/
theorem stepAlwaysHasNext : Obligations.StepAlwaysHasNext :=
  fun _ h => step_hasNext h.readable

/-- Settles O49: the step has a next state, and with an answer pending and a sink that accepts nothing waits. -/
theorem commandsAreAnswered : Obligations.CommandsAreAnswered := by
  intro s w rest hinv hb hi hsrc hsink
  obtain ⟨t, ht⟩ := step_hasNext hinv.readable
  have hd := ht
  rw [step_takeCommand hb hi] at hd
  obtain ⟨r, hE, -⟩ | ⟨-, hE⟩ | ⟨-, ⟨-, hs⟩ | ⟨-, hs⟩⟩ := dispatch_answers hd
  · exact ⟨t, r, ht, hE.busy, hE.inputs, hE.rsps⟩
  · exact ⟨t, _, ht, hE.busy, hE.inputs, hE.rsps⟩
  · exact absurd hs hsrc
  · rw [takeCommand_sinkReady, hsink] at hs
    cases hs

end Sys2Proof.Machine
end

section
/-! SUPPORT. Everything an instruction can do, said once: `exec_effect` collects the inversion lemmas of the twelve
meanings, and what follows argues by cases on `Effect`. -/

namespace Sys2Proof.Machine

/-- `Effect s i t`: one way for the instruction `i` to lead from `s` to `t`, with its guards (60_exceptions.md R173). -/
inductive Effect (s : State) : Instr → State → Prop where
  /-- R130. -/
  | sysRst : Effect s .sysRst (respond 0x0000#16 (resetBlock s))
  /-- R131. -/
  | sysStat : Effect s .sysStat (respond (zext16 s.status) s)
  /-- A halted block refuses (R175). -/
  | refused {i : Instr} (hi : i ≠ .sysRst) (he : s.err ≠ 0#4) : Effect s i (refuse s)
  /-- R86. -/
  | crcClr (he : s.err = 0#4) : Effect s .crcClr (respond 0x0000#16 { s with crc := 0x0000#16 })
  /-- R87. -/
  | crcUpd {b : Byte} (he : s.err = 0#4) :
      Effect s (.crcUpd b) (respond 0x0000#16 { s with crc := crc16Byte s.crc b })
  /-- R88. -/
  | crcRd (he : s.err = 0#4) : Effect s .crcRd (respond s.crc s)
  /-- R104. -/
  | pktInit {n : Byte} (he : s.err = 0#4) :
      Effect s (.pktInit n) (respond 0x0000#16 { emptyPacket s with blk := n })
  /-- R118. -/
  | pktNext (he : s.err = 0#4) :
      Effect s .pktNext (respond (zext16 (s.blk + 1#8)) { emptyPacket s with blk := s.blk + 1#8 })
  /-- `PKT.FILL` waits for the source (R111). -/
  | fillWaits (he : s.err = 0#4) (hs : s.src = []) : Effect s .pktFill (awaitSource s)
  /-- `PKT.FILL` loads the payload (R106 to R108). -/
  | fillLoads {d : SrcBytes} {eos : Bool} {rest : List SrcResponse} (he : s.err = 0#4)
      (hs : s.src = .data d eos :: rest) (hg : (SrcResponse.data d eos).good = true) :
      Effect s .pktFill (fillDone d.bytes.length (padded d.bytes) (sourceAnswered rest s))
  /-- `PKT.FILL` faults (R109, R110). -/
  | fillFails {r : SrcResponse} {rest : List SrcResponse} (he : s.err = 0#4) (hs : s.src = r :: rest)
      (hg : r.good = false) : Effect s .pktFill (fillFault (sourceAnswered rest s))
  /-- An operation on the payload faults while there is none (R112, R114, R116). -/
  | emptyFaults {i : Instr} (he : s.err = 0#4) (hf : s.filled = false)
      (hi : i.op = .pktPoke ∨ i.op = .pktPeek ∨ i.op = .pktCsum) : Effect s i (raise .illegalState s)
  /-- R112. -/
  | pktPoke {k : BitVec 7} {b : Byte} (he : s.err = 0#4) (hf : s.filled = true) :
      Effect s (.pktPoke k b) (respond 0x0000#16 (invalidate (memWrite k b s)))
  /-- R114. -/
  | pktPeek {k : BitVec 7} {b : Byte} (he : s.err = 0#4) (hf : s.filled = true) (hb : memRead k s = some b) :
      Effect s (.pktPeek k) (respond (zext16 b) s)
  /-- R116. -/
  | pktCsum {l : List Byte} (he : s.err = 0#4) (hf : s.filled = true) (hl : payload s = some l) :
      Effect s .pktCsum (csumDone (crc16 l) s)
  /-- `PKT.EMIT` faults on a checksum that is not current (R121). -/
  | emitFaults (he : s.err = 0#4) (hv : s.valid = false) : Effect s .pktEmit (raise .illegalState s)
  /-- `PKT.EMIT` sends the frame (R120). -/
  | emitSends {f : List Byte} (he : s.err = 0#4) (hv : s.valid = true) (hf : currentFrame s = some f)
      (hr : s.sinkReady = true) : Effect s .pktEmit (respond 0x0000#16 (appendTx f s))
  /-- `PKT.EMIT` waits for the sink (70_reset_and_hazards.md R202). -/
  | emitWaits (he : s.err = 0#4) (hv : s.valid = true) (hr : s.sinkReady = false) : Effect s .pktEmit s

section
variable {s t : State}

/-- The three ways of a running `PKT.FILL`. -/
theorem execPktFill_effect (h : execPktFill s = .next t) : Effect s .pktFill t := by
  obtain ⟨he, rfl⟩ | ⟨he, hs, rfl⟩ | ⟨he, r, rest, hs, rfl⟩ := execPktFill_next h
  · exact .refused nofun he
  · exact .fillWaits he hs
  · obtain ⟨hg, d, eos, _, rfl, -, rfl, hr⟩ | ⟨hg, hr⟩ := fillWith_cases r (sourceAnswered rest s) <;> rw [hr]
    · exact .fillLoads he hs hg
    · exact .fillFails he hs hg

/-- The three ways of a running `PKT.EMIT`. -/
theorem execPktEmit_effect (h : execPktEmit s = .next t) : Effect s .pktEmit t := by
  obtain ⟨he, rfl⟩ | ⟨he, hv, rfl⟩ | ⟨he, hv, f, hf, ⟨hr, rfl⟩ | ⟨hr, rfl⟩⟩ := execPktEmit_next h
  · exact .refused nofun he
  · exact .emitFaults he hv
  · exact .emitSends he hv hf hr
  · exact .emitWaits he hv hr

/-- Everything an instruction can answer with a next state. -/
theorem exec_effect {i : Instr} (h : exec i s = .next t) : Effect s i t := by
  cases i with
  | sysRst =>
    obtain rfl := execSysRst_next h
    exact .sysRst
  | sysStat =>
    obtain rfl := execSysStat_next h
    exact .sysStat
  | crcClr =>
    obtain ⟨he, rfl⟩ | ⟨he, rfl⟩ := execCrcClr_next h
    exacts [.refused nofun he, .crcClr he]
  | crcUpd b =>
    obtain ⟨he, rfl⟩ | ⟨he, rfl⟩ := execCrcUpd_next h
    exacts [.refused nofun he, .crcUpd he]
  | crcRd =>
    obtain ⟨he, rfl⟩ | ⟨he, rfl⟩ := execCrcRd_next h
    exacts [.refused nofun he, .crcRd he]
  | pktInit n =>
    obtain ⟨he, rfl⟩ | ⟨he, rfl⟩ := execPktInit_next h
    exacts [.refused nofun he, .pktInit he]
  | pktFill => exact execPktFill_effect h
  | pktPoke k b =>
    obtain ⟨he, rfl⟩ | ⟨he, hf, rfl⟩ | ⟨he, hf, rfl⟩ := execPktPoke_next h
    exacts [.refused nofun he, .emptyFaults he hf (.inl rfl), .pktPoke he hf]
  | pktPeek k =>
    obtain ⟨he, rfl⟩ | ⟨he, hf, rfl⟩ | ⟨he, hf, b, hb, rfl⟩ := execPktPeek_next h
    exacts [.refused nofun he, .emptyFaults he hf (.inr (.inl rfl)), .pktPeek he hf hb]
  | pktCsum =>
    obtain ⟨he, rfl⟩ | ⟨he, hf, rfl⟩ | ⟨he, hf, l, hl, rfl⟩ := execPktCsum_next h
    exacts [.refused nofun he, .emptyFaults he hf (.inr (.inr rfl)), .pktCsum he hf hl]
  | pktNext =>
    obtain ⟨he, rfl⟩ | ⟨he, rfl⟩ := execPktNext_next h
    exacts [.refused nofun he, .pktNext he]
  | pktEmit => exact execPktEmit_effect h

/-- With nothing in progress and no input a step changes nothing. -/
theorem step_idle (hb : s.busy = none) (hi : s.inputs = []) : step s = .next s := by
  simp only [step, runInput, hb, hi]

/-- With nothing in progress the `rst` at the head of the host's inputs is taken. -/
theorem step_takeRst {rest : List HostInput} (hb : s.busy = none) (hi : s.inputs = .rst :: rest) :
    step s = .next (takeRst rest s) := by
  simp only [step, runInput, hb, hi]

end

end Sys2Proof.Machine
end

section
/-! SUPPORT. The invariant in its three parts, the packet, `ERR` and the ports, and that a command keeps each. -/

namespace Sys2Proof.Machine

/-- The part of `StateInv` about `PAY`, `CHK`, `FILLED` and `VALID` (10_state.md R23, R24, R27 to R29). -/
structure PacketInv (s : State) : Prop where
  payForm : Memory.wf s.pay = true
  payEmpty : s.filled = false → s.pay = []
  payFull : s.filled = true → (payload s).isSome = true
  validFilled : s.valid = true → s.filled = true
  chkNone : s.valid = false → s.chk = none
  chkCurrent : s.valid = true → s.chk = (payload s).map crc16

/-- The part of `StateInv` about `ERR` and the flags it implies (60_exceptions.md R171, 42_system.md R131). -/
structure ErrInv (s : State) : Prop where
  legal : s.err = 0#4 ∨ s.err = 1#4 ∨ s.err = 2#4 ∨ s.err = 3#4
  state : s.err = 1#4 → s.valid = false
  read : s.err = 2#4 → s.filled = false

/-- The part of `StateInv` about the command in progress (00_scope.md R14, 70_reset_and_hazards.md R202). -/
structure PortsInv (s : State) : Prop where
  idle : s.busy = none → s.srcReq = false
  waiting : ∀ w, s.busy = some w → s.err = 0#4 ∧
    ((w = 0x210000#24 ∧ s.srcReq = true) ∨ (w = 0x260000#24 ∧ s.srcReq = false ∧ s.valid = true))

section
variable {s t : State}

theorem stateInv_iff : StateInv s ↔ PacketInv s ∧ ErrInv s ∧ PortsInv s := by
  constructor
  · rintro ⟨h1, h2, h3, h4, h5, h6, h7, h8, h9, h10, h11⟩
    exact ⟨⟨h1, h2, h3, h4, h5, h6⟩, ⟨h7, h8, h9⟩, ⟨h10, h11⟩⟩
  · rintro ⟨⟨h1, h2, h3, h4, h5, h6⟩, ⟨h7, h8, h9⟩, ⟨h10, h11⟩⟩
    exact ⟨h1, h2, h3, h4, h5, h6, h7, h8, h9, h10, h11⟩

/-! ### The packet -/

/-- An update off the packet keeps its invariant. -/
theorem PacketInv.congr (h : PacketInv s) (hp : t.pay = s.pay) (hc : t.chk = s.chk) (hf : t.filled = s.filled)
    (hv : t.valid = s.valid) : PacketInv t := by
  obtain ⟨h1, h2, h3, h4, h5, h6⟩ := h
  constructor <;> simpa only [payload_of_pay hp, hp, hc, hf, hv]

theorem packetInv_of_empty (hp : t.pay = []) (hc : t.chk = none) (hf : t.filled = false) (hv : t.valid = false) :
    PacketInv t := by
  constructor <;> simp [hp, hc, hf, hv, Memory.wf_nil]

/-- A packet whose bytes all hold values and whose checksum is not current is `LOADED`. -/
theorem packetInv_of_loaded {l : List Byte} (hw : Memory.wf t.pay = true) (hl : payload t = some l)
    (hc : t.chk = none) (hf : t.filled = true) (hv : t.valid = false) : PacketInv t := by
  constructor <;> simp [hw, hl, hc, hf, hv]

/-- A packet whose bytes all hold values, with their checksum, is `FRAMED`. -/
theorem packetInv_of_framed {l : List Byte} (hw : Memory.wf t.pay = true) (hl : payload t = some l)
    (hc : t.chk = some (crc16 l)) (hf : t.filled = true) (hv : t.valid = true) : PacketInv t := by
  constructor <;> simp [hw, hl, hc, hf, hv]

theorem Effect.keeps_packetInv {i : Instr} (h : Effect s i t) (hp : PacketInv s) : PacketInv t := by
  cases h with
  | sysStat | refused | crcClr | crcUpd | crcRd | fillWaits | emptyFaults | pktPeek | emitFaults | emitSends
  | emitWaits => exact hp.congr rfl rfl rfl rfl
  | sysRst | pktInit | pktNext | fillFails => exact packetInv_of_empty rfl rfl rfl rfl
  | @fillLoads d eos rest =>
    have hlen := padded_length d.atMost128
    exact packetInv_of_loaded (Memory.wf_ofBytesFrom _ hlen.le) (payload_loaded hlen rfl) rfl rfl rfl
  | @pktPoke k b he hf =>
    obtain ⟨l, hl⟩ := Option.isSome_iff_exists.mp (hp.payFull hf)
    exact packetInv_of_loaded (Memory.wf_write b hp.payForm k.isLt) (payload_memWrite k b hl) rfl hf rfl
  | pktCsum he hf hl => exact packetInv_of_framed hp.payForm hl rfl hf rfl

/-! ### `ERR` -/

theorem errInv_of_running (h : t.err = 0#4) : ErrInv t := by
  constructor <;> simp [h]

/-- `IllegalState` is raised with `VALID = 0`. -/
theorem errInv_of_illegalState (h : t.err = 1#4) (hv : t.valid = false) : ErrInv t := by
  constructor <;> simp [h, hv]

/-- `FileReadError` leaves `FILLED = 0`. -/
theorem errInv_of_fileReadError (h : t.err = 2#4) (hf : t.filled = false) : ErrInv t := by
  constructor <;> simp [h, hf]

theorem errInv_of_illegalCommand (h : t.err = 3#4) : ErrInv t := by
  constructor <;> simp [h]

/-- With `FILLED = 0` the checksum is not current either (10_state.md R29). -/
theorem PacketInv.not_valid (h : PacketInv s) (hf : s.filled = false) : s.valid = false :=
  Bool.eq_false_iff.mpr fun hv => by simp [h.validFilled hv] at hf

theorem Effect.keeps_errInv {i : Instr} (h : Effect s i t) (hp : PacketInv s) (hE : ErrInv s) : ErrInv t := by
  cases h with
  | sysStat | refused => exact ⟨hE.legal, hE.state, hE.read⟩
  | sysRst => exact errInv_of_running rfl
  | crcClr he | crcUpd he | crcRd he | pktInit he | pktNext he | fillWaits he | fillLoads he | pktPoke he
  | pktPeek he | pktCsum he | emitSends he | emitWaits he => exact errInv_of_running he
  | fillFails => exact errInv_of_fileReadError rfl rfl
  | emptyFaults _ hf => exact errInv_of_illegalState rfl (hp.not_valid hf)
  | emitFaults _ hv => exact errInv_of_illegalState rfl hv

/-! ### The ports -/

/-- What a command in progress finds at the ports: a request to the source stands only if it is a `PKT.FILL` of a
running block that is tried again. -/
def AsksOnlyToFill (w : Command) (s : State) : Prop := s.srcReq = true → s.err = 0#4 ∧ w = 0x210000#24

/-- A command that ended leaves the ports idle if it leaves no request. -/
theorem portsInv_of_ended (hb : t.busy = none) (hq : t.srcReq = false) : PortsInv t :=
  ⟨fun _ => hq, fun w hw => by rw [hb] at hw; cases hw⟩

/-- A word other than that of `PKT.FILL` runs with no request standing. -/
theorem AsksOnlyToFill.srcReq_eq_false {w : Command} {i : Instr} (h : AsksOnlyToFill w s) (hd : decode w = .ok i)
    (hi : i.op ≠ .pktFill) : s.srcReq = false := by
  refine Bool.eq_false_iff.mpr fun hq => ?_
  obtain ⟨-, rfl⟩ := h hq
  obtain rfl : Instr.pktFill = i := Except.ok.inj hd
  exact hi rfl

theorem Effect.keeps_portsInv {w : Command} {i : Instr} (h : Effect s i t) (hd : decode w = .ok i)
    (hb : s.busy = some w) (hq : AsksOnlyToFill w s) : PortsInv t := by
  cases h with
  | refused hi he => exact portsInv_of_ended rfl (Bool.eq_false_iff.mpr fun hr => he (hq hr).1)
  | fillLoads | fillFails => exact portsInv_of_ended rfl rfl
  | fillWaits he =>
    refine ⟨fun hn => by simp [hb] at hn, fun v hv => ⟨he, .inl ⟨?_, rfl⟩⟩⟩
    obtain rfl : w = v := Option.some.inj (hb.symm.trans hv)
    exact eq_matchBits_of_decode hd rfl
  | emitWaits he hv =>
    have hr := hq.srcReq_eq_false hd nofun
    refine ⟨fun _ => hr, fun v hw => ⟨he, .inr ⟨?_, hr, hv⟩⟩⟩
    obtain rfl : w = v := Option.some.inj (hb.symm.trans hw)
    exact eq_matchBits_of_decode hd rfl
  | emptyFaults _ _ hi =>
    refine portsInv_of_ended rfl (hq.srcReq_eq_false hd ?_)
    obtain hi | hi | hi := hi <;> simp [hi]
  | sysRst | sysStat | crcClr | crcUpd | crcRd | pktInit | pktNext | pktPoke | pktPeek | pktCsum | emitFaults
  | emitSends => exact portsInv_of_ended rfl (hq.srcReq_eq_false hd nofun)

/-! ### The step -/

/-- A reserved word keeps the invariant: it can only raise `IllegalCommand` or be refused. -/
theorem reservedWord_keeps_stateInv (h : reservedWord s = .next t) (hp : PacketInv s) (hE : ErrInv s)
    (hq : s.srcReq = false) : StateInv t := by
  obtain ⟨-, rfl⟩ | ⟨-, rfl⟩ := reservedWord_next h
  · exact stateInv_iff.mpr ⟨hp.congr rfl rfl rfl rfl, ⟨hE.legal, hE.state, hE.read⟩, portsInv_of_ended rfl hq⟩
  · exact stateInv_iff.mpr ⟨hp.congr rfl rfl rfl rfl, errInv_of_illegalCommand rfl, portsInv_of_ended rfl hq⟩

/-- The command in progress, new or tried again, leads to a state that meets the invariant. -/
theorem dispatch_keeps_stateInv {w : Command} (h : dispatch w s = .next t) (hp : PacketInv s) (hE : ErrInv s)
    (hb : s.busy = some w) (hq : AsksOnlyToFill w s) : StateInv t := by
  obtain ⟨i, hd, hx⟩ | ⟨r, hd, hx⟩ := dispatch_cases w s <;> rw [hx] at h
  · have he := exec_effect h
    exact stateInv_iff.mpr ⟨he.keeps_packetInv hp, he.keeps_errInv hp hE, he.keeps_portsInv hd hb hq⟩
  · refine reservedWord_keeps_stateInv h hp hE (Bool.eq_false_iff.mpr fun hr => ?_)
    obtain ⟨-, rfl⟩ := hq hr
    cases hd

end

end Sys2Proof.Machine
end

section
/-! SUPPORT. What a word does to `ERR`, the lifecycle of the packet and its table (41_packet.md R100), and the views. -/

namespace Sys2Proof.Machine

section
variable {s t : State}

/-- `ERR` stays, or goes from 0 to a fault's code, or the word is that of `SYS.RST` (10_state.md R31). -/
theorem dispatch_err {w : Command} (h : dispatch w s = .next t) :
    t.err = s.err ∨ (s.err = 0#4 ∧ (t.err = 1#4 ∨ t.err = 2#4 ∨ t.err = 3#4)) ∨
      (t.err = 0#4 ∧ w = 0x010000#24) := by
  obtain ⟨i, hd, hx⟩ | ⟨_, -, hx⟩ := dispatch_cases w s <;> rw [hx] at h
  · cases exec_effect h with
    | sysRst => exact .inr (.inr ⟨rfl, eq_matchBits_of_decode hd rfl⟩)
    | emptyFaults he | emitFaults he => exact .inr (.inl ⟨he, .inl rfl⟩)
    | fillFails he => exact .inr (.inl ⟨he, .inr (.inl rfl)⟩)
    | sysStat | refused | crcClr | crcUpd | crcRd | pktInit | pktNext | fillWaits | fillLoads | pktPoke | pktPeek
    | pktCsum | emitSends | emitWaits => exact .inl rfl
  · obtain ⟨-, rfl⟩ | ⟨he, rfl⟩ := reservedWord_next h
    · exact .inl rfl
    · exact .inr (.inl ⟨he, .inr (.inr rfl)⟩)

theorem lifecycle_halted (he : s.err ≠ 0#4) : s.lifecycle = .halted := if_pos he

theorem lifecycle_framed (he : s.err = 0#4) (hv : s.valid = true) : s.lifecycle = .framed := by
  simp [State.lifecycle, he, hv]

theorem lifecycle_loaded (he : s.err = 0#4) (hv : s.valid = false) (hf : s.filled = true) :
    s.lifecycle = .loaded := by
  simp [State.lifecycle, he, hv, hf]

theorem lifecycle_empty (he : s.err = 0#4) (hv : s.valid = false) (hf : s.filled = false) :
    s.lifecycle = .empty := by
  simp [State.lifecycle, he, hv, hf]

/-- A running block whose checksum is not current is `EMPTY` or `LOADED`. -/
theorem lifecycle_of_not_valid (he : s.err = 0#4) (hv : s.valid = false) :
    s.lifecycle = .empty ∨ s.lifecycle = .loaded := by
  cases hf : s.filled with
  | false => exact .inl (lifecycle_empty he hv hf)
  | true => exact .inr (lifecycle_loaded he hv hf)

/-- A running block with a payload is `LOADED` or `FRAMED`. -/
theorem lifecycle_of_filled (he : s.err = 0#4) (hf : s.filled = true) :
    s.lifecycle = .loaded ∨ s.lifecycle = .framed := by
  cases hv : s.valid with
  | false => exact .inl (lifecycle_loaded he hv hf)
  | true => exact .inr (lifecycle_framed he hv)

theorem lifecycle_ne_halted (he : s.err = 0#4) : s.lifecycle ≠ .halted := by
  rw [State.lifecycle, if_neg (not_not.mpr he)]
  split_ifs <;> exact nofun

/-- Every operation but `SYS.RST` leaves a halted block halted (60_exceptions.md R175). -/
theorem lifecycleTable_halted {i : Instr} (ok : Bool) (hi : i ≠ .sysRst) :
    lifecycleTable .halted i ok = .halted := by
  cases i with
  | sysRst => exact absurd rfl hi
  | _ => rfl

/-- The rows of R100 that discard the packet. -/
theorem lifecycleTable_of_discards {i : Instr} {l : Lifecycle} (ok : Bool) (hl : l ≠ .halted)
    (hi : i = .pktNext ∨ ∃ n, i = .pktInit n) : lifecycleTable l i ok = .empty := by
  cases l with
  | halted => exact absurd rfl hl
  | _ => obtain rfl | ⟨n, rfl⟩ := hi <;> rfl

theorem lifecycleTable_pktFill {l : Lifecycle} (ok : Bool) (hl : l ≠ .halted) :
    lifecycleTable l .pktFill ok = if ok then .loaded else .halted := by
  cases l with
  | halted => exact absurd rfl hl
  | _ => rfl

/-- An operation on the payload of an `EMPTY` packet leads to a halted block. -/
theorem lifecycleTable_empty {i : Instr} (ok : Bool) (hi : i.op = .pktPoke ∨ i.op = .pktPeek ∨ i.op = .pktCsum) :
    lifecycleTable .empty i ok = .halted := by
  cases i with
  | pktPoke | pktPeek | pktCsum => rfl
  | _ => simp [Instr.op] at hi

/-- Each effect that ends leads to the state of the table. -/
theorem Effect.lifecycle {i : Instr} (h : Effect s i t) (hp : PacketInv s)
    (hsrc : i = .pktFill → s.err = 0#4 → s.src ≠ []) :
    t.lifecycle = lifecycleTable s.lifecycle i (s.src.head?.any SrcResponse.good) := by
  cases h with
  | sysRst => exact lifecycle_empty rfl rfl rfl
  | sysStat | crcClr | crcUpd | crcRd =>
    change s.lifecycle = lifecycleTable s.lifecycle _ _
    cases s.lifecycle <;> rfl
  | refused hi he =>
    rw [lifecycle_halted he, lifecycleTable_halted _ hi]
    exact lifecycle_halted he
  | pktInit he =>
    rw [lifecycleTable_of_discards _ (lifecycle_ne_halted he) (.inr ⟨_, rfl⟩)]
    exact lifecycle_empty he rfl rfl
  | pktNext he =>
    rw [lifecycleTable_of_discards _ (lifecycle_ne_halted he) (.inl rfl)]
    exact lifecycle_empty he rfl rfl
  | fillWaits he hs => exact absurd hs (hsrc rfl he)
  | fillLoads he hs hg =>
    rw [lifecycleTable_pktFill _ (lifecycle_ne_halted he), hs, List.head?_cons, Option.any_some, hg]
    exact lifecycle_loaded he rfl rfl
  | fillFails he hs hg =>
    rw [lifecycleTable_pktFill _ (lifecycle_ne_halted he), hs, List.head?_cons, Option.any_some, hg]
    exact lifecycle_halted nofun
  | emptyFaults he hf hi =>
    rw [lifecycle_empty he (hp.not_valid hf) hf, lifecycleTable_empty _ hi]
    exact lifecycle_halted nofun
  | pktPoke he hf =>
    obtain hl | hl := lifecycle_of_filled he hf <;> rw [hl] <;> exact lifecycle_loaded he rfl hf
  | pktPeek he hf =>
    obtain hl | hl := lifecycle_of_filled he hf <;> rw [hl] <;> exact hl
  | pktCsum he hf =>
    obtain hl | hl := lifecycle_of_filled he hf <;> rw [hl] <;> exact lifecycle_framed he rfl
  | emitFaults he hv =>
    obtain hl | hl := lifecycle_of_not_valid he hv <;> rw [hl] <;> exact lifecycle_halted nofun
  | emitSends he hv | emitWaits he hv =>
    have hl := lifecycle_framed he hv
    exact hl.trans (by rw [hl]; rfl)

theorem nblk_of_first (h : s.blk = 0x01#8) : s.nblk = 0xFE#8 := by
  rw [State.nblk, h]
  rfl

/-- With `ERR` 0 and both flags 0, `STATUS` is 0 (10_state.md R30). -/
theorem status_of_empty (he : s.err = 0#4) (hv : s.valid = false) (hf : s.filled = false) :
    s.status = 0x00#8 := by
  rw [State.status, he, hv, hf]
  rfl

end

end Sys2Proof.Machine
end

section
/-! The statements of 10_state.md. -/

namespace Sys2Proof.Machine

/-- Settles O47: the packet, `ERR` and the ports each keep their part of the invariant. -/
theorem stepKeepsInvariant : Obligations.StepKeepsInvariant := by
  intro s t hinv h
  obtain ⟨hp, hE, hP⟩ := stateInv_iff.mp hinv
  obtain ⟨w, hb, hx⟩ | ⟨-, -, hx⟩ | ⟨hb, rest, -, hx⟩ | ⟨hb, w, rest, -, hx⟩ := step_cases s <;> rw [hx] at h
  · refine dispatch_keeps_stateInv h hp hE hb fun hq => ?_
    obtain ⟨he, ⟨hw, -⟩ | ⟨-, hr, -⟩⟩ := hP.waiting w hb
    · exact ⟨he, hw⟩
    · simp [hr] at hq
  · injection h with h
    exact h ▸ hinv
  · injection h with h
    subst h
    exact stateInv_iff.mpr
      ⟨packetInv_of_empty rfl rfl rfl rfl, errInv_of_running rfl, portsInv_of_ended hb (hP.idle hb)⟩
  · refine dispatch_keeps_stateInv h (hp.congr rfl rfl rfl rfl) ⟨hE.legal, hE.state, hE.read⟩ rfl fun hq => ?_
    rw [takeCommand_srcReq, hP.idle hb] at hq
    cases hq

/-- Settles O16: `rst` clears `ERR`, and every word does what `dispatch_err` says. -/
theorem errKeepsFirstFault : Obligations.ErrKeepsFirstFault := by
  intro s t h
  obtain ⟨w, hb, hx⟩ | ⟨-, -, hx⟩ | ⟨hb, rest, hi, hx⟩ | ⟨hb, w, rest, hi, hx⟩ := step_cases s <;> rw [hx] at h
  · obtain h | h | ⟨he, rfl⟩ := dispatch_err h
    exacts [.inl h, .inr (.inl h), .inr (.inr ⟨he, .inl hb⟩)]
  · injection h with h
    exact .inl (h ▸ rfl)
  · injection h with h
    exact .inr (.inr ⟨h ▸ rfl, .inr ⟨hb, rest, .inl hi⟩⟩)
  · obtain h | h | ⟨he, rfl⟩ := dispatch_err h
    exacts [.inl h, .inr (.inl h), .inr (.inr ⟨he, .inr ⟨hb, rest, .inr hi⟩⟩)]

/-- Settles O43: each effect is a record update of the fields its columns name; only `PKT.POKE` needs the memory's law
of reading beside a write. -/
theorem accessMatrix : Obligations.AccessMatrix := by
  intro i s t h
  cases exec_effect h with
  | refused | emitWaits => simp
  | sysRst | sysStat | crcClr | crcUpd | crcRd | pktInit | pktNext | fillWaits | fillLoads | fillFails | pktPeek
  | pktCsum | emitFaults | emitSends => simp [Instr.op]
  | emptyFaults _ _ hi => obtain hi | hi | hi := hi <;> simp [hi]
  | @pktPoke k b =>
    have hread : ∀ a, a ≠ k.toNat → Memory.read (Memory.write s.pay k.toNat b) a = Memory.read s.pay a :=
      fun _ ha => Memory.read_write_other _ _ _ ha
    simpa [Instr.op] using hread

/-- Settles O44: each effect leads to the `ERR` and the flags of the table's entry. -/
theorem lifecycleTableHolds : Obligations.LifecycleTableHolds :=
  fun _ _ _ hinv h hsrc => (exec_effect h).lifecycle (stateInv_iff.mp hinv).1 hsrc

/-- Settles O9: nothing is taken. -/
theorem stepWithoutInputIdles : Obligations.StepWithoutInputIdles :=
  fun _ hb hi => step_idle hb hi

/-- Settles O13: both resets end in the fields of `resetBlock`. -/
theorem resetValues : Obligations.ResetValues := by
  refine ⟨⟨rfl, rfl, Memory.read_nil, rfl, rfl, rfl, rfl, rfl, rfl⟩, ?_⟩
  rintro s t (h | ⟨hb, ⟨rest, hi⟩, h⟩)
  · obtain rfl := execSysRst_next h
    exact ⟨rfl, nblk_of_first rfl, Memory.read_nil, rfl, rfl, rfl, rfl, rfl, status_of_empty rfl rfl rfl, rfl⟩
  · obtain rfl := Host.Outcome.next.inj ((step_takeRst hb hi).symm.trans h)
    exact ⟨rfl, nblk_of_first rfl, Memory.read_nil, rfl, rfl, rfl, rfl, rfl, status_of_empty rfl rfl rfl, rfl⟩

/-- Settles O46: the reset packet is empty, `ERR` is 0 and nothing is in progress. -/
theorem resetMeetsInvariant : Obligations.ResetMeetsInvariant :=
  stateInv_iff.mpr ⟨packetInv_of_empty rfl rfl rfl rfl, errInv_of_running rfl, portsInv_of_ended rfl rfl⟩

end Sys2Proof.Machine
end

section
/-! SUPPORT. What an instruction and a command word do to the TX stream (20_memory.md R43, R51). -/

namespace Sys2Proof.Machine

section
variable {s t : State}

/-- The frame of the current packet, if it has one, is a whole frame (30_encoding.md R60). -/
theorem currentFrame_length {f : List Byte} (h : currentFrame s = some f) : f.length = Config.frameLen := by
  obtain ⟨l, c, hl, -, rfl⟩ := currentFrame_eq_some.mp h
  exact frame_length (payload_length hl)

/-- TX stays, or the instruction is `PKT.EMIT` and appends the frame of the current packet (41_packet.md R120). -/
theorem Effect.tx {i : Instr} (h : Effect s i t) :
    t.tx = s.tx ∨ (i = .pktEmit ∧ ∃ f, currentFrame s = some f ∧ t.tx = s.tx ++ f) := by
  cases h with
  | emitSends _ _ hf => exact .inr ⟨rfl, _, hf, rfl⟩
  | sysRst | sysStat | refused | crcClr | crcUpd | crcRd | pktInit | pktNext | fillWaits | fillLoads | fillFails
  | emptyFaults | pktPoke | pktPeek | pktCsum | emitFaults | emitWaits => exact .inl rfl

/-- TX stays, or the word is that of `PKT.EMIT` and appends one whole frame; a reserved word appends nothing. -/
theorem dispatch_tx {w : Command} (h : dispatch w s = .next t) :
    t.tx = s.tx ∨ (w = 0x260000#24 ∧ ∃ f, t.tx = s.tx ++ f ∧ f.length = Config.frameLen) := by
  obtain ⟨i, hd, hx⟩ | ⟨_, -, hx⟩ := dispatch_cases w s <;> rw [hx] at h
  · obtain h | ⟨rfl, f, hf, h⟩ := (exec_effect h).tx
    · exact .inl h
    · exact .inr ⟨eq_matchBits_of_decode hd rfl, f, h, currentFrame_length hf⟩
  · obtain ⟨-, rfl⟩ | ⟨-, rfl⟩ := reservedWord_next h <;> exact .inl rfl

end

end Sys2Proof.Machine
end

section
/-! The statements of 20_memory.md. -/

namespace Sys2Proof.Machine

/-- Settles O45: `rst` and an idle step leave TX, and every word, new or in progress, does what `dispatch_tx` says. -/
theorem txGrowsByWholeFrames : Obligations.TxGrowsByWholeFrames := by
  intro s t h hne
  obtain ⟨w, hb, hx⟩ | ⟨-, -, hx⟩ | ⟨-, rest, -, hx⟩ | ⟨hb, w, rest, hi, hx⟩ := step_cases s <;> rw [hx] at h
  · obtain h | ⟨rfl, f, hf, hlen⟩ := dispatch_tx h
    exacts [absurd h hne, ⟨f, hf, hlen, .inl hb⟩]
  · injection h with h
    exact absurd (h ▸ rfl) hne
  · injection h with h
    exact absurd (h ▸ rfl) hne
  · obtain h | ⟨rfl, f, hf, hlen⟩ := dispatch_tx h
    exacts [absurd h hne, ⟨f, hf, hlen, .inr ⟨hb, rest, hi⟩⟩]

end Sys2Proof.Machine
end

section
/-! SUPPORT. Decoding and encoding are inverse: the row of a word, and the fields of an instruction's word
(30_encoding.md R65 to R69). -/

namespace Sys2Proof

/-- Every operation has a row in the opcode map. -/
theorem Op.mem_all (o : Op) : o ∈ Op.all := by cases o <;> decide

/-- A word selects a row exactly when its field `op` is the row's opcode and its operand fields fit the row's form. -/
theorem Op.selects_word_iff (o : Op) (w : Command) :
    o.selects w = true ↔ Command.fieldOp w = o.code ∧ (RawCommand.ofWord w).fits o.form = true := by
  have h := o.selects_iff (RawCommand.ofWord w)
  rwa [RawCommand.toWord_ofWord] at h

/-- No word selects two rows. -/
theorem Op.selects_unique {o p : Op} {w : Command} (ho : o.selects w = true) (hp : p.selects w = true) : o = p :=
  have ⟨hco, _⟩ := (o.selects_word_iff w).mp ho
  have ⟨hcp, _⟩ := (p.selects_word_iff w).mp hp
  Op.code_injective (hco.symm.trans hcp)

/-- A word is decoded by the row it selects. -/
theorem decode_of_selects {o : Op} {w : Command} (h : o.selects w = true) : decode w = .ok (o.build w) := by
  unfold decode
  cases hf : Op.all.find? fun p => p.selects w with
  | none => exact absurd h (List.find?_eq_none.mp hf o o.mem_all)
  | some p =>
    have hp : p.selects w = true := List.find?_some (p := fun q : Op => q.selects w) hf
    rw [Op.selects_unique h hp]

/-- A word that selects no row is reserved. -/
theorem decode_of_selects_none {w : Command} (h : ∀ o : Op, o.selects w = false) :
    decode w = .error (reservedReason w) := by
  have hf : (Op.all.find? fun o => o.selects w) = none :=
    List.find?_eq_none.mpr fun o _ => by rw [h o]; exact Bool.false_ne_true
  simp only [decode, hf]

/-- A word is reserved exactly when it selects no row. -/
theorem decode_eq_error_iff {w : Command} {r : Reserved} :
    decode w = .error r ↔ (∀ o : Op, o.selects w = false) ∧ reservedReason w = r := by
  by_cases h : ∃ o : Op, o.selects w = true
  · obtain ⟨o, ho⟩ := h
    rw [decode_of_selects ho]
    constructor
    · nofun
    · rintro ⟨hn, -⟩
      exact absurd (hn o) (by simp [ho])
  · have hn : ∀ o : Op, o.selects w = false := fun o => Bool.eq_false_iff.mpr fun ho => h ⟨o, ho⟩
    rw [decode_of_selects_none hn, Except.error.injEq]
    exact (and_iff_right hn).symm

/-- The fields of the instruction built from a word that selects the row are the word's fields. -/
theorem Op.raw_build {o : Op} {w : Command} (h : o.selects w = true) : (o.build w).raw = RawCommand.ofWord w := by
  obtain ⟨hop, hfit⟩ := (o.selects_word_iff w).mp h
  rw [RawCommand.ofWord] at hfit ⊢
  cases o with
  | sysRst | sysStat | crcClr | crcRd | pktFill | pktCsum | pktNext | pktEmit =>
    obtain ⟨ha, hb⟩ : Command.fieldA w = 0#8 ∧ Command.fieldB w = 0#8 := by
      simpa [RawCommand.fits, Op.form] using hfit
    rw [hop, ha, hb]
    rfl
  | crcUpd | pktInit =>
    have hb : Command.fieldB w = 0#8 := by simpa [RawCommand.fits, Op.form] using hfit
    rw [hop, hb]
    rfl
  | pktPoke =>
    have ha : (Command.fieldA w).msb = false := by simpa [RawCommand.fits, Op.form] using hfit
    rw [hop, ← Command.index_of_fieldA ha]
    rfl
  | pktPeek =>
    obtain ⟨ha, hb⟩ : (Command.fieldA w).msb = false ∧ Command.fieldB w = 0#8 := by
      simpa [RawCommand.fits, Op.form] using hfit
    rw [hop, hb, ← Command.index_of_fieldA ha]
    rfl

/-- The instruction that a row builds is of the row's operation. -/
theorem Op.op_build (o : Op) (w : Command) : (o.build w).op = o := by cases o <;> rfl

/-- A word that an instruction was decoded from is the word of that instruction. -/
theorem encode_of_decode {w : Command} {i : Instr} (h : decode w = .ok i) : encode i = w := by
  have hs := selects_of_decode h
  have hi : i.op.build w = i := Except.ok.inj ((decode_of_selects hs).symm.trans h)
  have hraw := Op.raw_build hs
  rw [hi] at hraw
  rw [encode, hraw, RawCommand.toWord_ofWord]

/-- The word of an instruction selects the row of its operation. -/
theorem selects_encode (i : Instr) : i.op.selects (encode i) = true := by
  refine (i.op.selects_iff i.raw).mpr ⟨rfl, ?_⟩
  cases i with
  | sysRst | sysStat | crcClr | crcRd | pktFill | pktCsum | pktNext | pktEmit | crcUpd | pktInit => rfl
  | pktPoke k b => exact (Laws.EncodesInRow.pktPoke k b).2
  | pktPeek k => exact (Laws.EncodesInRow.pktPeek k).2

/-- The index of a word whose field `a` is `0 ‖ k` is `k` (R66, R69). -/
theorem Command.fieldIndex_of_fieldA {w : Command} {k : BitVec 7} (h : Command.fieldA w = 0#1 ++ k) :
    Command.fieldIndex w = k := by
  have hi := Command.index_of_fieldA (h ▸ Laws.index_msb k)
  exact (BitVec.append_right_inj _).mp (hi.trans h)

/-- The fields of an instruction's word are the instruction's fields. -/
theorem ofWord_encode (i : Instr) : RawCommand.ofWord (encode i) = i.raw := RawCommand.ofWord_toWord i.raw

theorem fieldA_encode (i : Instr) : Command.fieldA (encode i) = i.operandA := congrArg RawCommand.a (ofWord_encode i)

theorem fieldB_encode (i : Instr) : Command.fieldB (encode i) = i.operandB := congrArg RawCommand.b (ofWord_encode i)

/-- The operands taken from an instruction's word are the instruction's operands. -/
theorem build_encode (i : Instr) : i.op.build (encode i) = i := by
  have ha := fieldA_encode i
  have hb := fieldB_encode i
  cases i with
  | sysRst | sysStat | crcClr | crcRd | pktFill | pktCsum | pktNext | pktEmit => rfl
  | crcUpd => exact congrArg Instr.crcUpd ha
  | pktInit => exact congrArg Instr.pktInit ha
  | pktPoke => exact congrArg₂ Instr.pktPoke (Command.fieldIndex_of_fieldA ha) hb
  | pktPeek => exact congrArg Instr.pktPeek (Command.fieldIndex_of_fieldA ha)

/-- The word of an instruction decodes to the instruction (R69). -/
theorem decode_encode (i : Instr) : decode (encode i) = .ok i := by
  rw [decode_of_selects (selects_encode i), build_encode]

/-- The legal words are the words of the instructions. -/
theorem decode_eq_ok_iff {w : Command} {i : Instr} : decode w = .ok i ↔ encode i = w :=
  ⟨encode_of_decode, fun h => h ▸ decode_encode i⟩

/-- Two instructions have two words (R73). -/
theorem encode_injective : Function.Injective encode := fun i j h =>
  Except.ok.inj ((decode_encode i).symm.trans (h ▸ decode_encode j))

end Sys2Proof
end

section
/-! SUPPORT. Which clause of 30_encoding.md R72 makes a word reserved. -/

namespace Sys2Proof

/-- An opcode names no operation exactly when no operation has it. -/
theorem Op.ofCode_eq_none_iff {c : Byte} : Op.ofCode? c = none ↔ ∀ o : Op, o.code ≠ c := by
  simp [Op.ofCode?, Op.mem_all]

/-- A word whose `op` is not listed has that for its reason (R72 (a)). -/
theorem reservedReason_of_unlisted {w : Command} (h : ∀ o : Op, o.code ≠ Command.fieldOp w) :
    reservedReason w = .unknownOpcode := by
  simp only [reservedReason, Op.ofCode_eq_none_iff.mpr h]

/-- A word whose `op` is listed has one of the two reasons of its operand fields (R72 (b), (c)). -/
theorem reservedReason_of_code {o : Op} {w : Command} (h : o.code = Command.fieldOp w) :
    reservedReason w =
      if (o = .pktPoke ∨ o = .pktPeek) ∧ (Command.fieldA w).msb = true then .indexRange else .unusedBits := by
  simp only [reservedReason, ← h, Op.ofCode_code]
  cases o <;> simp [Op.form]

/-- A word is reserved for its opcode exactly when its `op` is not listed (R72 (a)). -/
theorem decode_eq_unknownOpcode_iff {w : Command} :
    decode w = .error .unknownOpcode ↔ ∀ o : Op, o.code ≠ Command.fieldOp w := by
  rw [decode_eq_error_iff]
  constructor
  · rintro ⟨-, hr⟩ o ho
    rw [reservedReason_of_code ho] at hr
    split at hr <;> cases hr
  · intro hn
    refine ⟨fun o => Bool.eq_false_iff.mpr fun hs => ?_, reservedReason_of_unlisted hn⟩
    obtain ⟨hop, -⟩ := (o.selects_word_iff w).mp hs
    exact hn o hop.symm

/-- A word is reserved for its index exactly when its `op` takes one and bit 7 of its field `a` is set (R72 (c)). -/
theorem decode_eq_indexRange_iff {w : Command} :
    decode w = .error .indexRange ↔
      ∃ o : Op, o.code = Command.fieldOp w ∧ (o = .pktPoke ∨ o = .pktPeek) ∧ (Command.fieldA w).msb = true := by
  rw [decode_eq_error_iff]
  constructor
  · rintro ⟨-, hr⟩
    by_cases hl : ∃ o : Op, o.code = Command.fieldOp w
    · obtain ⟨o, ho⟩ := hl
      rw [reservedReason_of_code ho] at hr
      split at hr
      · exact ⟨o, ho, ‹_›⟩
      · cases hr
    · rw [reservedReason_of_unlisted fun o ho => hl ⟨o, ho⟩] at hr
      cases hr
  · rintro ⟨o, ho, hi, hm⟩
    refine ⟨fun p => Bool.eq_false_iff.mpr fun hs => ?_, by rw [reservedReason_of_code ho, if_pos ⟨hi, hm⟩]⟩
    obtain ⟨hp, hfit⟩ := (p.selects_word_iff w).mp hs
    obtain rfl := Op.code_injective (ho.trans hp)
    rcases hi with rfl | rfl <;> simp [RawCommand.fits, Op.form, RawCommand.ofWord, hm] at hfit

/-- Bit 7 of field `a` is bit 15 of the word (R65). -/
theorem Command.fieldA_msb (w : Command) : (Command.fieldA w).msb = w.getLsbD 15 := by
  simp [Command.fieldA, BitVec.msb_eq_getLsbD_last]

end Sys2Proof
end

section
/-! SUPPORT. The number of instructions: an instruction is an operation with operands of its form (30_encoding.md R66,
R72). -/

namespace Sys2Proof

/-- The operands of a form (R66). -/
def Form.Operands : Form → Type
  | .none => Unit
  | .a8 => Byte
  | .idx => BitVec 7
  | .idxB8 => BitVec 7 × Byte

/-- An operation with operands of its form. -/
def Op.apply : (o : Op) → o.form.Operands → Instr
  | .sysRst, _ => .sysRst
  | .sysStat, _ => .sysStat
  | .crcClr, _ => .crcClr
  | .crcUpd, b => .crcUpd b
  | .crcRd, _ => .crcRd
  | .pktInit, n => .pktInit n
  | .pktFill, _ => .pktFill
  | .pktPoke, x => .pktPoke x.1 x.2
  | .pktPeek, k => .pktPeek k
  | .pktCsum, _ => .pktCsum
  | .pktNext, _ => .pktNext
  | .pktEmit, _ => .pktEmit

/-- The operands of an instruction. -/
def Instr.operands : (i : Instr) → i.op.form.Operands
  | .crcUpd b => b
  | .pktInit n => n
  | .pktPoke k b => (k, b)
  | .pktPeek k => k
  | .sysRst | .sysStat | .crcClr | .crcRd | .pktFill | .pktCsum | .pktNext | .pktEmit => ()

/-- An instruction is an operation with operands of its form. -/
def Instr.equivOperands : Instr ≃ Σ o : Op, o.form.Operands where
  toFun i := ⟨i.op, i.operands⟩
  invFun x := x.1.apply x.2
  left_inv i := by cases i <;> rfl
  right_inv x := by
    obtain ⟨o, x⟩ := x
    cases o <;> rfl

/-- How many operand values a form admits: 2 to the number of its free bits (R66). -/
def Form.operandCount : Form → Nat
  | .none => 1
  | .a8 => 2 ^ 8
  | .idx => 2 ^ 7
  | .idxB8 => 2 ^ 7 * 2 ^ 8

theorem card_bitVec (n : Nat) : Nat.card (BitVec n) = 2 ^ n :=
  (Nat.card_congr BitVec.equivFin.toEquiv).trans (Nat.card_fin _)

theorem Form.card_operands (f : Form) : Nat.card f.Operands = f.operandCount := by
  cases f with
  | none => exact Nat.card_unique (α := Unit)
  | a8 => exact card_bitVec 8
  | idx => exact card_bitVec 7
  | idxB8 => exact (Nat.card_prod (BitVec 7) Byte).trans (congrArg₂ _ (card_bitVec 7) (card_bitVec 8))

theorem Form.finite_operands (f : Form) : Finite f.Operands :=
  Nat.finite_of_card_ne_zero (by rw [f.card_operands]; cases f <;> decide)

/-- The instructions are counted row by row of the opcode map. -/
theorem card_instr : Nat.card Instr = (Op.all.map fun o => o.form.operandCount).sum := by
  let : Fintype Op := Fintype.ofList Op.all Op.mem_all
  have := fun o : Op => o.form.finite_operands
  calc Nat.card Instr = Nat.card (Σ o : Op, o.form.Operands) := Nat.card_congr Instr.equivOperands
    _ = ∑ o : Op, Nat.card o.form.Operands := Nat.card_sigma
    _ = ∑ o ∈ Op.all.toFinset, o.form.operandCount := by simp only [Form.card_operands]; rfl
    _ = _ := List.sum_toFinset _ (by decide)

end Sys2Proof
end

section
/-! SUPPORT. The CRC of a sequence followed by its own CRC (40_crc.md R92). -/

namespace Sys2Proof.Machine

/-- A shift that pushes out a zero is a plain shift. -/
theorem crcShift_of_small {c : Word} (h : c.toNat < 2 ^ 15) : crcShift c = c <<< 1 := by
  have hb : c.getLsbD 15 = false := Nat.testBit_lt_two_pow h
  rw [crcShift, hb, if_neg Bool.false_ne_true]

/-- Shifts that push out only zeros are one plain shift. -/
theorem crcShifts_of_small (n : Nat) (c : Word) (h : c.toNat * 2 ^ n < 2 ^ 16) : crcShifts n c = c <<< n := by
  induction n generalizing c with
  | zero => simp [crcShifts_zero]
  | succ n ih =>
    have hall : c.toNat * 2 * 2 ^ n < 2 ^ 16 := by rwa [Nat.mul_assoc, ← Nat.pow_succ']
    have hone : c.toNat * 2 ≤ c.toNat * 2 * 2 ^ n := Nat.le_mul_of_pos_right _ (Nat.two_pow_pos n)
    have hnext : (c <<< 1).toNat = c.toNat * 2 := by
      rw [BitVec.toNat_shiftLeft, Nat.shiftLeft_eq, Nat.mod_eq_of_lt (by omega)]
    rw [crcShifts_succ, crcShift_of_small (by omega), ih _ (hnext ▸ hall), ← BitVec.shiftLeft_add, Nat.add_comm]

/-- A 16-bit value is its low byte XOR its high byte moved up. -/
theorem xor_hiByte (c : Word) : c ^^^ (zext16 (hiByte c) <<< 8) = zext16 (loByte c) := by
  apply BitVec.eq_of_getLsbD_eq
  intro j hj
  simp only [zext16, hiByte, loByte, BitVec.getLsbD_xor, BitVec.getLsbD_shiftLeft, BitVec.getLsbD_setWidth,
    BitVec.getLsbD_extractLsb']
  interval_cases j <;> simp

/-- The byte step on the accumulator's own high byte leaves the low byte, moved up. -/
theorem crc16Byte_hiByte (c : Word) : crc16Byte c (hiByte c) = zext16 (loByte c) <<< 8 := by
  have hb := (loByte c).isLt
  have hz : (zext16 (loByte c)).toNat = (loByte c).toNat := BitVec.toNat_setWidth_of_le (by decide)
  rw [crc16Byte, xor_hiByte, crcShifts_of_small 8 _ (by omega)]

/-- The byte step on an accumulator that is the byte moved up leaves zero. -/
theorem crc16Byte_cancel (b : Byte) : crc16Byte (zext16 b <<< 8) b = 0x0000#16 := by
  rw [crc16Byte, BitVec.xor_self]
  rfl

/-- Appending the CRC, high byte first, makes the CRC of the whole zero (40_crc.md R92). -/
theorem crc16_append_crc16 (m : List Byte) : crc16 (m ++ [hiByte (crc16 m), loByte (crc16 m)]) = 0x0000#16 := by
  rw [← List.singleton_append, ← List.append_assoc, crc16_snoc, crc16_snoc, crc16Byte_hiByte, crc16Byte_cancel]

end Sys2Proof.Machine
end

section
/-! SUPPORT. The wire frame byte by byte (30_encoding.md R60), and the frame that `PKT.EMIT` sends (41_packet.md
R120). -/

namespace Sys2Proof.Machine

section
variable {s t : State}

/-- A checksum that holds a value is the CRC of the payload (10_state.md R24). -/
theorem StateInv.chk_eq (h : StateInv s) {l : List Byte} {c : Word} (hl : payload s = some l)
    (hc : s.chk = some c) : c = crc16 l := by
  cases hv : s.valid with
  | false => exact absurd (hc.symm.trans (h.chkNone hv)) nofun
  | true =>
    have hcur := h.chkCurrent hv
    rw [hl, hc] at hcur
    exact Option.some.inj hcur

/-- What a `PKT.EMIT` that sends something sends (R120): the frame of the payload with the payload's CRC. -/
theorem execPktEmit_frame (hinv : StateInv s) (h : exec .pktEmit s = .next t) (hne : t.tx ≠ s.tx) :
    ∃ l, payload s = some l ∧ t.tx = s.tx ++ frame s.blk l (crc16 l) := by
  obtain h | ⟨-, f, hf, h⟩ := (exec_effect h).tx
  · exact absurd h hne
  · obtain ⟨l, c, hl, hc, rfl⟩ := currentFrame_eq_some.mp hf
    exact ⟨l, hl, hinv.chk_eq hl hc ▸ h⟩

end

/-- `NBLK` as the frame carries it (R22, R120). -/
theorem blk_xor_ff (s : State) : s.blk ^^^ 0xFF#8 = s.nblk := BitVec.xor_allOnes (x := s.blk)

/-- The block number and its complement in a frame (30_encoding.md R62). -/
theorem blk_xor_nblk (s : State) : s.blk ^^^ s.nblk = 0xFF#8 := by
  rw [← blk_xor_ff, ← BitVec.xor_assoc, BitVec.xor_self, BitVec.zero_xor]

theorem blk_add_nblk (s : State) : s.blk.toNat + s.nblk.toNat = 255 := by
  have := s.blk.isLt
  simp only [State.nblk, BitVec.toNat_not]
  omega

section
variable (b : Byte) (l : List Byte) (c : Word)

/-- After the three header bytes of a frame come the payload and the CRC (R60). -/
theorem frame_drop_header : (frame b l c).drop 3 = l ++ [hiByte c, loByte c] := rfl

theorem frame_payload {k : Nat} (hk : k < l.length) : (frame b l c)[3 + k]? = l[k]? := by
  rw [← List.getElem?_drop, frame_drop_header, List.getElem?_append_left hk]

theorem frame_crcHi : (frame b l c)[3 + l.length]? = some (hiByte c) := by
  rw [← List.getElem?_drop, frame_drop_header, List.getElem?_append_right (Nat.le_refl _), Nat.sub_self]
  rfl

theorem frame_crcLo : (frame b l c)[3 + (l.length + 1)]? = some (loByte c) := by
  rw [← List.getElem?_drop, frame_drop_header, List.getElem?_append_right (Nat.le_add_right _ _),
    Nat.add_sub_cancel_left]
  rfl

end

end Sys2Proof.Machine
end

section
/-! The statements of 30_encoding.md. -/

namespace Sys2Proof.Machine

/-- Settles O2: the word selects the row of its operation, and the row takes the operands back from it. -/
theorem decodeOfEncode : Obligations.DecodeOfEncode := decode_encode

/-- Settles O3: the instruction a row builds has the three fields of the word. -/
theorem encodeOfDecode : Obligations.EncodeOfDecode := fun _ _ => encode_of_decode

/-- Settles O4: at most one row is selected, and its instruction has the fields of the word. -/
theorem decodeSelectsRow : Obligations.DecodeSelectsRow := by
  refine ⟨fun o w h => ?_, fun w h => ⟨_, decode_of_selects_none fun o => beq_false_of_ne (h o)⟩⟩
  have hs : o.selects w = true := beq_iff_eq.mpr h
  have hraw := Op.raw_build hs
  exact ⟨o.build w, decode_of_selects hs, o.op_build w, congrArg RawCommand.a hraw, congrArg RawCommand.b hraw⟩

/-- Settles O5: a row is selected by its opcode and its form, and the opcode decides among the reasons of a word that
selects none. -/
theorem reservedByField : Obligations.ReservedByField := by
  intro w
  refine ⟨?_, decode_eq_unknownOpcode_iff, ?_⟩
  · constructor
    · rintro ⟨i, hi⟩
      obtain ⟨hop, hfit⟩ := (Op.selects_word_iff _ _).mp (selects_of_decode hi)
      exact ⟨i.op, hop.symm, hfit⟩
    · rintro ⟨o, hop, hfit⟩
      exact ⟨_, decode_of_selects ((o.selects_word_iff w).mpr ⟨hop.symm, hfit⟩)⟩
  · rw [decode_eq_indexRange_iff, Command.fieldA_msb]
    constructor
    · rintro ⟨_, ho, rfl | rfl, hm⟩
      · exact ⟨.inl ho.symm, hm⟩
      · exact ⟨.inr ho.symm, hm⟩
    · rintro ⟨ho | ho, hm⟩
      · exact ⟨.pktPoke, ho.symm, .inl rfl, hm⟩
      · exact ⟨.pktPeek, ho.symm, .inr rfl, hm⟩

/-- Settles O6: the legal words are as many as the instructions, which are counted row by row. -/
theorem legalWordCount : Obligations.LegalWordCount := by
  unfold Obligations.LegalWordCount
  simp only [decode_eq_ok_iff]
  calc Nat.card { w // ∃ i, encode i = w } = Nat.card Instr := Nat.card_range_of_injective encode_injective
    _ = (Op.all.map fun o => o.form.operandCount).sum := card_instr
    _ = 33416 := by decide

/-- Settles O41: what is sent is the frame of the payload with the payload's CRC, read byte by byte. -/
theorem emittedFramesAreSound : Obligations.EmittedFramesAreSound := by
  intro s t hinv h hne
  obtain ⟨l, hl, htx⟩ := execPktEmit_frame hinv h hne
  have hlen : l.length = 128 := payload_length hl
  have hpay : ((frame s.blk l (crc16 l)).drop 3).take 128 = l := by rw [frame_drop_header, ← hlen, List.take_left]
  refine ⟨_, htx, frame_length hlen, rfl, rfl, congrArg some (blk_xor_ff s), blk_xor_nblk s, blk_add_nblk s,
    fun k hk => ?_, ⟨hiByte (crc16 l), loByte (crc16 l), ?_, ?_, ?_⟩, crc16_append_crc16 l⟩
  · rw [frame_payload _ _ _ (hlen ▸ hk), payload_read hl hk]
  · simpa only [hlen] using frame_crcHi s.blk l (crc16 l)
  · simpa only [hlen] using frame_crcLo s.blk l (crc16 l)
  · rw [hpay, hiByte_mul_add_loByte]

/-- Settles O1: each word is evaluated. -/
theorem sampleWordsDecode : Obligations.SampleWordsDecode :=
  ⟨rfl, rfl, rfl, rfl, rfl, rfl, rfl, rfl, rfl⟩

end Sys2Proof.Machine
end

section
/-! SUPPORT. The byte step of the CRC generator (40_crc.md R82): its eight shifts are one function iterated, it splits
over XOR, and the accumulator's low byte passes through it unchanged. The table of R95 and the shift register of R83 (a)
are each tied to it here. -/

namespace Sys2Proof.Machine

/-- The step made `n` times is the step's `n`-th iterate. -/
theorem crcShifts_eq_iterate (n : Nat) (c : Word) : crcShifts n c = crcShift^[n] c := by
  induction n generalizing c with
  | zero => rfl
  | succ n ih => rw [crcShifts_succ, ih, Function.iterate_succ_apply]

/-- Moving a byte up to the accumulator's high byte splits over XOR. -/
theorem zext16_xor_shiftLeft (a b : Byte) :
    zext16 (a ^^^ b) <<< 8 = (zext16 a <<< 8) ^^^ (zext16 b <<< 8) := by
  rw [zext16, BitVec.setWidth_xor, BitVec.shiftLeft_xor_distrib]
  rfl

/-- The byte step splits over XOR of accumulators and bytes together. -/
theorem crc16Byte_xor (c d : Word) (a b : Byte) :
    crc16Byte (c ^^^ d) (a ^^^ b) = crc16Byte c a ^^^ crc16Byte d b := by
  rw [crc16Byte, crc16Byte, crc16Byte, ← crcShifts_xor, zext16_xor_shiftLeft]
  congr 1
  ac_rfl

/-- The byte step of an accumulator depends on its high byte through the table's entry; its low byte only moves up
(40_crc.md R83 (b)). -/
theorem crc16Byte_eq_xor (c : Word) (b : Byte) :
    crc16Byte c b = (c <<< 8) ^^^ crc16Byte 0x0000#16 (hiByte c ^^^ b) := by
  have hlow : crcShifts 8 (zext16 (loByte c)) = zext16 (loByte c) <<< 8 := by
    have := crc16Byte_hiByte c
    rwa [crc16Byte, xor_hiByte] at this
  have hup : zext16 (loByte c) <<< 8 = c <<< 8 := by
    rw [← xor_hiByte, BitVec.shiftLeft_xor_distrib, ← BitVec.shiftLeft_add,
      BitVec.shiftLeft_eq_zero (n := 8 + 8) (Nat.le_refl 16), BitVec.xor_zero]
  have hsplit : c ^^^ (zext16 b <<< 8) = zext16 (loByte c) ^^^ (zext16 (hiByte c ^^^ b) <<< 8) := by
    rw [← xor_hiByte, zext16_xor_shiftLeft, BitVec.xor_assoc, ← BitVec.xor_assoc (zext16 (hiByte c) <<< 8),
      BitVec.xor_self, BitVec.zero_xor]
  rw [crc16Byte, hsplit, crcShifts_xor, hlow, hup, crc16Byte, BitVec.zero_xor]

/-- The table as R95 prints it, entry by entry. -/
theorem crcTable_eq_map :
    crcTable = (List.range 256).map fun k => crc16Byte 0x0000#16 (BitVec.ofNat 8 k) := by
  decide +kernel

theorem crcTableAt_eq (j : Byte) : crcTableAt j = crc16Byte 0x0000#16 j := by
  rw [crcTableAt, crcTable_eq_map, List.getD_eq_getElem?_getD, List.getElem?_map, List.getElem?_range j.isLt,
    Option.map_some, Option.getD_some, BitVec.ofNat_toNat, BitVec.setWidth_eq]

/-- One clock of the shift register, fed bit `k`, is a shift of the accumulator with that bit XORed into its bit 15;
whatever else is XORed on moves along. -/
theorem crcShift_xor_of_bit {c d : Word} {b : Byte} {k : Nat} (h : d.getLsbD 15 = b.getLsbD k) :
    crcShift (c ^^^ d) = crcSerialBit b k c ^^^ (d <<< 1) := by
  rw [crcShift, crcSerialBit, BitVec.getLsbD_xor, h, BitVec.shiftLeft_xor_distrib]
  split
  · ac_rfl
  · rfl

/-- Feeding the low `n` bits of a byte is `n` shifts with these bits XORed on at the top beforehand. -/
theorem crcShifts_eq_serialBits (b : Byte) (n : Nat) (hn : n ≤ 16) (c : Word) :
    crcShifts n (c ^^^ (zext16 b <<< (16 - n))) = crcSerialBits b n c := by
  induction n generalizing c with
  | zero => rw [BitVec.shiftLeft_eq_zero (by decide), BitVec.xor_zero]; rfl
  | succ n ih =>
    have hbit : (zext16 b <<< (16 - (n + 1))).getLsbD 15 = b.getLsbD n := by
      have hk : 15 - (16 - (n + 1)) = n := by omega
      rw [BitVec.getLsbD_shiftLeft, zext16, BitVec.getLsbD_setWidth, hk]
      simp [Nat.lt_of_succ_le hn]
    have hnext : (zext16 b <<< (16 - (n + 1))) <<< 1 = zext16 b <<< (16 - n) := by
      rw [← BitVec.shiftLeft_add]
      congr 1
      omega
    rw [crcShifts_succ, crcShift_xor_of_bit hbit, hnext, ih (by omega), crcSerialBits]

end Sys2Proof.Machine
end

section
/-! SUPPORT. The CRC of sequences: of zeros, of a concatenation, and of a byte-wise XOR (40_crc.md R90, R91, R93). -/

namespace Sys2Proof.Machine

theorem crc16_append (m n : List Byte) : crc16 (m ++ n) = n.foldl crc16Byte (crc16 m) := by
  rw [crc16_eq_foldl, crc16_eq_foldl, List.foldl_append]

/-- A zero byte leaves an accumulator of zero. -/
theorem crc16Byte_zero : crc16Byte 0x0000#16 0x00#8 = 0x0000#16 := by decide

theorem crc16_zeros (k : Nat) : crc16 (List.replicate k 0x00#8) = 0x0000#16 := by
  rw [crc16_eq_foldl]
  induction k with
  | zero => rfl
  | succ k ih => rw [List.replicate_succ, List.foldl_cons, crc16Byte_zero, ih]

/-- Going on over two sequences of one length from two accumulators splits over XOR. -/
theorem foldl_crc16Byte_zipWith_xor {m n : List Byte} (h : m.length = n.length) (c d : Word) :
    (List.zipWith (· ^^^ ·) m n).foldl crc16Byte (c ^^^ d) = m.foldl crc16Byte c ^^^ n.foldl crc16Byte d := by
  induction m generalizing n c d with
  | nil => rw [List.eq_nil_of_length_eq_zero h.symm]; rfl
  | cons a m ih =>
    cases n with
    | nil => cases h
    | cons b n =>
      rw [List.zipWith_cons_cons, List.foldl_cons, List.foldl_cons, List.foldl_cons, crc16Byte_xor,
        ih (Nat.succ.inj h)]

end Sys2Proof.Machine
end

section
/-! SUPPORT. The CRC as a remainder over GF(2) (40_crc.md R81). Each shift of the accumulator is one step of the long
division: it appends the bit shifted out to the quotient. -/

namespace Sys2Proof.Machine

/-- Adding below the lowest bit of a shifted number is XOR. -/
theorem shiftLeft_xor_of_lt {b i : Nat} (h : b < 2 ^ i) (a : Nat) : a <<< i ^^^ b = a <<< i + b := by
  rw [Nat.shiftLeft_add_eq_or_of_lt h]
  apply Nat.eq_of_testBit_eq
  intro j
  rw [Nat.testBit_xor, Nat.testBit_or, Nat.testBit_shiftLeft]
  by_cases hj : i ≤ j
  · rw [Nat.testBit_lt_two_pow (h.trans_le (Nat.pow_le_pow_right (by decide) hj)), Bool.xor_false, Bool.or_false]
  · simp [hj]

/-- A 16-bit value shifted left without loss is bit 15 at `x^16` and the 16 bits that stay. -/
theorem toNat_shiftLeft_one (c : Word) :
    c.toNat <<< 1 = (c.getLsbD 15).toNat <<< 16 ^^^ (c <<< 1).toNat := by
  have hc := c.isLt
  rw [shiftLeft_xor_of_lt (c <<< 1).isLt, BitVec.getLsbD, Nat.toNat_testBit, BitVec.toNat_shiftLeft,
    Nat.shiftLeft_eq, Nat.shiftLeft_eq]
  omega

/-- One step of the division: the bit shifted out is the quotient's next bit. -/
theorem toNat_crcShift (c : Word) :
    c.toNat <<< 1 = (if c.getLsbD 15 then generator else 0) ^^^ (crcShift c).toNat := by
  rw [toNat_shiftLeft_one, crcShift]
  cases c.getLsbD 15 with
  | false => rfl
  | true =>
    have hg : generator = true.toNat <<< 16 ^^^ Config.crcPoly.toNat := by decide
    rw [if_pos rfl, if_pos rfl, BitVec.toNat_xor, hg, Nat.xor_assoc, Nat.xor_comm Config.crcPoly.toNat, Nat.xor_assoc,
      Nat.xor_self, Nat.xor_zero]

/-- `c` is what is left of the number `v` when a multiple of the generator is taken off it over GF(2). -/
def LeavesRemainder (v : Nat) (c : Word) : Prop := ∃ q : List Bool, v = gf2Mul q generator ^^^ c.toNat

theorem LeavesRemainder.shift {v : Nat} {c : Word} (h : LeavesRemainder v c) :
    LeavesRemainder (v <<< 1) (crcShift c) := by
  obtain ⟨q, rfl⟩ := h
  refine ⟨q ++ [c.getLsbD 15], ?_⟩
  rw [Nat.shiftLeft_xor_distrib, toNat_crcShift, gf2Mul_snoc, Nat.xor_assoc, Nat.shiftLeft_eq, Nat.pow_one]

theorem LeavesRemainder.shifts {v : Nat} {c : Word} (n : Nat) (h : LeavesRemainder v c) :
    LeavesRemainder (v <<< n) (crcShifts n c) := by
  induction n generalizing v c with
  | zero => exact h
  | succ n ih =>
    rw [crcShifts_succ, Nat.add_comm, Nat.shiftLeft_add]
    exact ih h.shift

/-- What is XORed onto the number is XORed onto the remainder. -/
theorem LeavesRemainder.xor {v : Nat} {c : Word} (h : LeavesRemainder v c) (d : Word) :
    LeavesRemainder (v ^^^ d.toNat) (c ^^^ d) := by
  obtain ⟨q, rfl⟩ := h
  exact ⟨q, by rw [BitVec.toNat_xor, Nat.xor_assoc]⟩

/-- A message one byte longer, followed by 16 zero bits: the byte comes in 16 bits above the end. -/
theorem messageNumber_snoc_shiftLeft (m : List Byte) (b : Byte) :
    messageNumber (m ++ [b]) <<< 16 = (messageNumber m <<< 16 ^^^ (zext16 b <<< 8).toNat) <<< 8 := by
  have hb := b.isLt
  have hz : (zext16 b <<< 8).toNat = b.toNat * 2 ^ 8 := by
    rw [BitVec.toNat_shiftLeft, zext16, BitVec.toNat_setWidth, Nat.shiftLeft_eq]
    omega
  rw [messageNumber_snoc, shiftLeft_xor_of_lt (zext16 b <<< 8).isLt, hz]
  simp only [Nat.shiftLeft_eq]
  omega

/-- The CRC of a message is left of the message followed by 16 zero bits (R81). -/
theorem leavesRemainder_crc16 (m : List Byte) : LeavesRemainder (messageNumber m <<< 16) (crc16 m) := by
  induction m using List.reverseRecOn with
  | nil => exact ⟨[], rfl⟩
  | append_singleton m b ih =>
    rw [messageNumber_snoc_shiftLeft, crc16_snoc]
    exact (ih.xor _).shifts 8

end Sys2Proof.Machine
end

section
/-! SUPPORT. A payload byte changed and changed back (40_crc.md R94, 20_memory.md R52), and what PKT.POKE and PKT.CSUM
do in a running block that holds a payload. -/

namespace Sys2Proof.Machine

/-- A byte written and then written back leaves every byte as it was. -/
theorem Memory.read_write_write_back {m : Memory} {a : Nat} {v : Byte} (w : Byte) (h : Memory.read m a = some v)
    (x : Nat) : Memory.read (Memory.write (Memory.write m a w) a v) x = Memory.read m x := by
  by_cases hx : x = a
  · rw [hx, Memory.read_write_same, h]
  · rw [Memory.read_write_other _ _ _ hx, Memory.read_write_other _ _ _ hx]

section
variable {s t : State}

/-- Two states with the same payload bytes have the same payload. -/
theorem payload_congr (h : ∀ a, Memory.read t.pay a = Memory.read s.pay a) : payload t = payload s :=
  Memory.bytesFrom_congr fun x _ _ => h x

theorem exec_pktPoke_of_filled {k : BitVec 7} {b : Byte} (h : exec (.pktPoke k b) s = .next t) (he : s.err = 0#4)
    (hf : s.filled = true) : t = respond 0x0000#16 (invalidate (memWrite k b s)) := by
  obtain ⟨hn, -⟩ | ⟨-, hn, -⟩ | ⟨-, -, ht⟩ := execPktPoke_next h
  · exact absurd he hn
  · simp [hf] at hn
  · exact ht

theorem exec_pktCsum_of_filled (h : exec .pktCsum s = .next t) (he : s.err = 0#4) (hf : s.filled = true) :
    ∃ l, payload s = some l ∧ t = csumDone (crc16 l) s := by
  obtain ⟨hn, -⟩ | ⟨-, hn, -⟩ | ⟨-, -, ht⟩ := execPktCsum_next h
  · exact absurd he hn
  · simp [hf] at hn
  · exact ht

end

end Sys2Proof.Machine
end

section
/-! SUPPORT. The command word of CRC.UPD (40_crc.md R87). -/

namespace Sys2Proof

theorem encode_crcUpd (b : Byte) : encode (.crcUpd b) = 0x110000#24 ||| (b.setWidth 24 <<< 8) := by
  apply BitVec.eq_of_getLsbD_eq
  intro j hj
  simp only [encode, Instr.raw, RawCommand.toWord, Instr.op, Op.code, Instr.operandA, Instr.operandB,
    BitVec.getLsbD_append, BitVec.getLsbD_or, BitVec.getLsbD_shiftLeft, BitVec.getLsbD_setWidth]
  interval_cases j <;> simp

end Sys2Proof
end

section
/-! The statements of 40_crc.md. -/

namespace Sys2Proof.Machine

/-- Settles O23: eight shifts with the whole byte XORed on at the top beforehand. -/
theorem serialFormEqualsByteStep : Obligations.SerialFormEqualsByteStep :=
  fun c b => (crcShifts_eq_serialBits b 8 (by decide) c).symm

/-- Settles O24: the entries are evaluated, and the byte step goes through the entry of its high byte. -/
theorem tableFormEqualsByteStep : Obligations.TableFormEqualsByteStep := by
  refine ⟨crcTableAt_eq, fun c b => ?_⟩
  rw [crcTableAt_eq, crc16Byte_eq_xor c b]
  rfl

/-- Settles O25: every shift of the accumulator is a step of the division. -/
theorem crcIsPolynomialRemainder : Obligations.CrcIsPolynomialRemainder := by
  intro m
  obtain ⟨q, hq⟩ := leavesRemainder_crc16 m
  exact ⟨q, by rw [← hq, Nat.shiftLeft_eq]⟩

/-- Settles O26: the byte step splits over XOR, from an accumulator of zero. -/
theorem crcIsLinear : Obligations.CrcIsLinear := by
  intro m n h
  have hx := foldl_crc16Byte_zipWith_xor h 0x0000#16 0x0000#16
  rwa [BitVec.xor_self, ← crc16_eq_foldl, ← crc16_eq_foldl, ← crc16_eq_foldl] at hx

/-- Settles O28: the high byte leaves the low one, and the low one leaves zero. -/
theorem crcResidueIsZero : Obligations.CrcResidueIsZero := crc16_append_crc16

/-- Settles O42: the last `PKT.CSUM` runs over the bytes of the first state. -/
theorem recomputedChecksumRoundTrips : Obligations.RecomputedChecksumRoundTrips := by
  intro s s1 s2 s3 s4 i v w c hinv he hv hc hread h1 h2 h3 h4
  have hf := hinv.validFilled hv
  obtain rfl := exec_pktPoke_of_filled h1 he hf
  obtain ⟨_, -, rfl⟩ := exec_pktCsum_of_filled h2 he hf
  obtain rfl := exec_pktPoke_of_filled h3 he hf
  obtain ⟨l, hl, rfl⟩ := exec_pktCsum_of_filled h4 he hf
  have hback := Memory.read_write_write_back w hread
  have hpay : payload s = some l := (payload_congr hback).symm.trans hl
  obtain rfl := hinv.chk_eq hpay hc
  exact ⟨rfl, rfl, rfl, hback⟩

/-- Settles O20: the meaning of a running and of a halted block. -/
theorem crcClrResult : Obligations.CrcClrResult :=
  ⟨rfl, fun _ he => whenRunning_running he, fun _ he => whenRunning_halted he⟩

/-- Settles O21: the byte step is eight iterated shifts. -/
theorem crcUpdResult : Obligations.CrcUpdResult := by
  refine ⟨fun b => ?_, fun b s he => ?_, fun b s he => whenRunning_halted he⟩
  · rw [← encode_crcUpd, decode_encode]
  · rw [← crcShifts_eq_iterate]
    exact whenRunning_running he

/-- Settles O22: the meaning of a running and of a halted block. -/
theorem crcRdResult : Obligations.CrcRdResult :=
  ⟨rfl, fun _ he => whenRunning_running he, fun _ he => whenRunning_halted he⟩

/-- Settles O27: zeros keep the accumulator at its start value, and the byte steps compose. -/
theorem crcZerosAndContinuation : Obligations.CrcZerosAndContinuation := by
  refine ⟨fun k m => ?_, crc16_zeros, crc16_append⟩
  rw [crc16_append, crc16_zeros, crc16_eq_foldl]

end Sys2Proof.Machine
end

section
/-! SUPPORT. The command words of the packet operations with operands (41_packet.md R104, R112, R114), and words that
are reserved for their operand fields (30_encoding.md R72). Which operations read or write the payload (R101). -/

namespace Sys2Proof

/-- Three bytes side by side are the OR of the three, each moved to its place (R65). -/
theorem append_eq_or (x a b : Byte) :
    (x ++ a ++ b : Command) = (x.setWidth 24 <<< 16) ||| (a.setWidth 24 <<< 8) ||| b.setWidth 24 := by
  apply BitVec.eq_of_getLsbD_eq
  intro j hj
  simp only [BitVec.getLsbD_append, BitVec.getLsbD_or, BitVec.getLsbD_shiftLeft, BitVec.getLsbD_setWidth]
  interval_cases j <;> simp

/-- The byte `0 ‖ i` of an index has the index's value (R66). -/
theorem setWidth_index (i : BitVec 7) : (0#1 ++ i : Byte).setWidth 24 = i.setWidth 24 := by
  have h : (0#1 ++ i : Byte) = i.setWidth 8 := (BitVec.setWidth_eq_append (by decide)).symm
  rw [h]
  exact BitVec.setWidth_setWidth (by decide)

theorem encode_pktInit (n : Byte) : encode (.pktInit n) = 0x200000#24 ||| (n.setWidth 24 <<< 8) :=
  (append_eq_or 0x20#8 n 0#8).trans BitVec.or_zero

theorem encode_pktPoke (i : BitVec 7) (b : Byte) :
    encode (.pktPoke i b) = 0x220000#24 ||| (i.setWidth 24 <<< 8) ||| b.setWidth 24 := by
  rw [← setWidth_index]
  exact append_eq_or 0x22#8 (0#1 ++ i) b

theorem encode_pktPeek (i : BitVec 7) : encode (.pktPeek i) = 0x230000#24 ||| (i.setWidth 24 <<< 8) := by
  rw [← setWidth_index]
  exact (append_eq_or 0x23#8 (0#1 ++ i) 0#8).trans BitVec.or_zero

/-- A word with a listed `op` whose operand fields do not fit the operation's form is reserved. -/
theorem decode_of_unfit {o : Op} {a b : Byte} (h : RawCommand.fits ⟨o.code, a, b⟩ o.form = false) :
    ∃ r, decode (o.code ++ a ++ b) = .error r := by
  refine ⟨_, decode_of_selects_none fun p => Bool.eq_false_iff.mpr fun hp => ?_⟩
  obtain ⟨hop, hfit⟩ := (p.selects_iff ⟨o.code, a, b⟩).mp hp
  obtain rfl := Op.code_injective hop
  exact absurd (hfit.symm.trans h) nofun

/-- The operations on the payload, with their operands. -/
theorem Instr.op_payload_iff {i : Instr} : (i.op = .pktPoke ∨ i.op = .pktPeek ∨ i.op = .pktCsum) ↔
    i = .pktCsum ∨ (∃ k b, i = .pktPoke k b) ∨ ∃ k, i = .pktPeek k := by
  cases i <;> simp [Instr.op]

end Sys2Proof
end

section
/-! SUPPORT. How each packet operation goes in the case that applies (41_packet.md R104 to R122): the equations behind
`exec_effect`. -/

namespace Sys2Proof.Machine

/-- A byte widened to the data of a response (00_scope.md R17). -/
theorem zext16_byte (b : Byte) : zext16 b = 0x00#8 ++ b := BitVec.setWidth_eq_append (by decide)

/-- A full read, and any read at the confirmed end of the source, is one on which `PKT.FILL` succeeds (R107, R108). -/
theorem SrcResponse.good_data_iff {d : SrcBytes} {eos : Bool} :
    (SrcResponse.data d eos).good = true ↔ d.bytes.length = 128 ∨ eos = true := by
  simp [SrcResponse.good]

/-- The answers on which `PKT.FILL` faults: a source failure, and a short read with `eos = 0` (R109, R110). -/
theorem SrcResponse.good_eq_false_iff {r : SrcResponse} :
    r.good = false ↔ r = .fail ∨ ∃ d : SrcBytes, r = .data d false ∧ d.bytes.length < 128 := by
  cases r with
  | fail => simp [SrcResponse.good]
  | data d eos =>
    have hlen := d.atMost128
    cases eos with
    | true => simp [SrcResponse.good]
    | false =>
      have hshort : d.bytes.length ≠ 128 ↔ d.bytes.length < 128 := by omega
      simpa [SrcResponse.good] using hshort

/-- Byte `k` of a padded read is byte `k` of the read, or the fill byte where the read has none (R108). -/
theorem getElem?_padded {l : List Byte} {k : Nat} (hk : k < Config.payloadLen) :
    (padded l)[k]? = some (l.getD k Config.fillByte) := by
  rw [padded, List.getElem?_append]
  split
  · next hl => simp [hl]
  · next hl =>
    have hrest : k - l.length < Config.payloadLen - l.length := by omega
    rw [List.getElem?_replicate_of_lt hrest, List.getD_eq_default _ _ (Nat.le_of_not_lt hl)]

section
variable {s : State}

/-- The payload is the list of 128 bytes that reading `PAY` address by address gives. -/
theorem payload_eq_some_iff {l : List Byte} :
    payload s = some l ↔ l.length = 128 ∧ ∀ k, k < 128 → Memory.read s.pay k = l[k]? := by
  rw [payload, Memory.bytesFrom_eq_some]
  simp only [Nat.zero_add]

/-- The frame is read from `BLK`, `PAY` and `CHK` alone. -/
theorem currentFrame_congr {t : State} (hb : t.blk = s.blk) (hp : t.pay = s.pay) (hc : t.chk = s.chk) :
    currentFrame t = currentFrame s := by
  simp only [currentFrame, payload_of_pay hp, hb, hc]

/-- With nothing in progress a fault changes only `ERR` and gives its response. -/
theorem raise_of_idle (f : BlockFault) (hb : s.busy = none) :
    raise f s = { s with err := f.code, rsps := s.rsps ++ [⟨f.code, 0x0000#16⟩] } := by
  simp only [raise, hb]

/-- A halted block refuses every operation but `SYS.RST` and `SYS.STAT` (60_exceptions.md R175). -/
theorem exec_of_halted {i : Instr} (hr : i ≠ .sysRst) (hs : i ≠ .sysStat) (he : s.err ≠ 0#4) :
    exec i s = .next (refuse s) := by
  cases i with
  | sysRst => exact absurd rfl hr
  | sysStat => exact absurd rfl hs
  | _ => exact whenRunning_halted he

theorem fillWith_of_good {d : SrcBytes} {eos : Bool} (h : (SrcResponse.data d eos).good = true) :
    fillWith (.data d eos) s = fillDone d.bytes.length (padded d.bytes) s := by
  obtain ⟨-, _, _, _, hr, -, rfl, hx⟩ | ⟨hn, -⟩ := fillWith_cases (.data d eos) s
  · injection hr with hd
    subst hd
    exact hx
  · exact absurd (h.symm.trans hn) nofun

theorem fillWith_of_not_good {r : SrcResponse} (h : r.good = false) : fillWith r s = fillFault s := by
  obtain ⟨hn, -⟩ | ⟨-, hx⟩ := fillWith_cases r s
  · exact absurd (h.symm.trans hn) nofun
  · exact hx

/-- The operations on the payload fault while there is none (R101). -/
theorem exec_of_not_filled {i : Instr} (he : s.err = 0#4) (hf : s.filled = false)
    (hi : i.op = .pktPoke ∨ i.op = .pktPeek ∨ i.op = .pktCsum) : exec i s = .next (raise .illegalState s) := by
  cases i with
  | pktPoke | pktPeek | pktCsum => exact (whenRunning_running he).trans (if_pos hf)
  | _ => simp [Instr.op] at hi

end

section
variable {s : State} (he : s.err = 0#4)
include he

theorem exec_pktFill_unanswered (hs : s.src = []) : exec .pktFill s = .next (awaitSource s) :=
  (whenRunning_running he).trans (by simp only [hs])

theorem exec_pktFill_answered {r : SrcResponse} {rest : List SrcResponse} (hs : s.src = r :: rest) :
    exec .pktFill s = .next (fillWith r (sourceAnswered rest s)) :=
  (whenRunning_running he).trans (by simp only [hs])

theorem exec_pktFill_good {d : SrcBytes} {eos : Bool} {rest : List SrcResponse} (hs : s.src = .data d eos :: rest)
    (hg : (SrcResponse.data d eos).good = true) :
    exec .pktFill s = .next (fillDone d.bytes.length (padded d.bytes) (sourceAnswered rest s)) := by
  rw [exec_pktFill_answered he hs, fillWith_of_good hg]

theorem exec_pktPoke_filled (i : BitVec 7) (b : Byte) (hf : s.filled = true) :
    exec (.pktPoke i b) s = .next (respond 0x0000#16 (invalidate (memWrite i b s))) :=
  (whenRunning_running he).trans (by simp [hf])

theorem exec_pktPeek_filled {i : BitVec 7} {b : Byte} (hf : s.filled = true) (hb : memRead i s = some b) :
    exec (.pktPeek i) s = .next (respond (zext16 b) s) :=
  (whenRunning_running he).trans (by simp [hf, hb])

theorem exec_pktCsum_filled {l : List Byte} (hf : s.filled = true) (hl : payload s = some l) :
    exec .pktCsum s = .next (csumDone (crc16 l) s) :=
  (whenRunning_running he).trans (by simp [hf, hl])

theorem exec_pktNext_running :
    exec .pktNext s = .next (respond (zext16 (s.blk + 1#8)) { emptyPacket s with blk := s.blk + 1#8 }) :=
  whenRunning_running he

theorem exec_pktEmit_stale (hv : s.valid = false) : exec .pktEmit s = .next (raise .illegalState s) :=
  (whenRunning_running he).trans (if_pos hv)

theorem exec_pktEmit_sends {f : List Byte} (hv : s.valid = true) (hf : currentFrame s = some f)
    (hr : s.sinkReady = true) : exec .pktEmit s = .next (respond 0x0000#16 (appendTx f s)) :=
  (whenRunning_running he).trans (by simp [hv, hf, hr])

theorem exec_pktEmit_waits {f : List Byte} (hv : s.valid = true) (hf : currentFrame s = some f)
    (hr : s.sinkReady = false) : exec .pktEmit s = .next s :=
  (whenRunning_running he).trans (by simp [hv, hf, hr])

end

end Sys2Proof.Machine
end

section
/-! SUPPORT. What a packet operation leaves behind: the fault it raises (60_exceptions.md R170), and a checksum that is
no longer current (41_packet.md R121). -/

namespace Sys2Proof.Machine

section
variable {s t : State} {i : Instr}

/-- The source's next answer is one on which `PKT.FILL` faults (R109, R110). -/
theorem src_not_good_iff : (∃ r rest, s.src = r :: rest ∧ r.good = false) ↔
    (∃ rest, s.src = .fail :: rest) ∨ ∃ d rest, s.src = .data d false :: rest ∧ d.bytes.length < 128 := by
  constructor
  · rintro ⟨r, rest, hs, hr⟩
    obtain rfl | ⟨d, rfl, hlen⟩ := SrcResponse.good_eq_false_iff.mp hr
    exacts [.inl ⟨rest, hs⟩, .inr ⟨d, rest, hs, hlen⟩]
  · rintro (⟨rest, hs⟩ | ⟨d, rest, hs, hlen⟩)
    exacts [⟨_, rest, hs, rfl⟩, ⟨_, rest, hs, SrcResponse.good_eq_false_iff.mpr (.inr ⟨d, rfl, hlen⟩)⟩]

/-- The payload's writers and those that discard it leave the checksum not current, unless they fault or wait. -/
theorem Effect.not_valid (h : Effect s i t)
    (hi : i = .pktFill ∨ i = .pktNext ∨ (∃ n, i = .pktInit n) ∨ (∃ k b, i = .pktPoke k b) ∨ i = .sysRst)
    (hsrc : i = .pktFill → s.src ≠ []) (hz : t.err = 0#4) : t.valid = false := by
  cases h with
  | sysRst | pktInit | pktNext | fillLoads | fillFails | pktPoke => rfl
  | refused _ he => exact absurd hz he
  | fillWaits _ hs => exact absurd hs (hsrc rfl)
  | emptyFaults => exact absurd hz nofun
  | sysStat | crcClr | crcUpd | crcRd | pktPeek | pktCsum | emitFaults | emitSends | emitWaits => simp at hi

end

end Sys2Proof.Machine
end

section
/-! SUPPORT. The canonical order over an image (41_packet.md R102, R124): what its four commands do for one chunk, and
an induction over the number of chunks. -/

namespace Sys2Proof.Machine

theorem stepN_succ {s u : State} (n : Nat) (h : step s = .next u) : stepN (n + 1) s = stepN n u := by
  simp only [stepN, h]

/-- Several steps are some of them and then the rest. -/
theorem stepN_add {s u : State} {a : Nat} (b : Nat) (h : stepN a s = .next u) : stepN (a + b) s = stepN b u := by
  induction a generalizing s with
  | zero =>
    obtain rfl := Host.Outcome.next.inj h
    rw [Nat.zero_add]
  | succ a ih =>
    rw [stepN] at h
    split at h
    · next v hv => rw [Nat.add_right_comm, stepN_succ _ hv, ih h]
    · cases h
    · cases h

/-- A running block with nothing in progress and a sink that accepts, the host's commands and the source's answers to
come (R124). -/
structure Ready (inputs : List HostInput) (src : List SrcResponse) (s : State) : Prop where
  err : s.err = 0#4
  busy : s.busy = none
  sinkReady : s.sinkReady = true
  inputs : s.inputs = inputs
  src : s.src = src

/-- Chunk `j` as the source answers it (R124). -/
def chunkAnswer (m : List Byte) (e : Nat → Bool) (j : Nat) : SrcResponse :=
  .data (chunkBytes m j) (decide ((chunk m j).length < Config.payloadLen) || e j)

/-- The frame of chunk `j`, with block number `blk + j` (R124). -/
def chunkFrame (blk : Byte) (m : List Byte) (j : Nat) : List Byte :=
  frame (blk + BitVec.ofNat 8 j) (padded (chunk m j)) (crc16 (padded (chunk m j)))

theorem imageAnswers_eq_map (m : List Byte) (e : Nat → Bool) :
    imageAnswers m e = (List.range (packetCount m.length)).map (chunkAnswer m e) := rfl

theorem imageFrames_eq_flatMap (blk : Byte) (m : List Byte) :
    imageFrames blk m = (List.range (packetCount m.length)).flatMap (chunkFrame blk m) := rfl

theorem imageCommands_succ (k : Nat) : imageCommands (k + 1) = imageCommands k ++ packetCommands := by
  simp only [imageCommands, List.replicate_succ', List.flatten_append, List.flatten_singleton]

/-- A full chunk is a full read, and a shorter one confirms the end. -/
theorem chunkAnswer_good (m : List Byte) (e : Nat → Bool) (j : Nat) : (chunkAnswer m e j).good = true := by
  have hle : (chunk m j).length ≤ 128 := (chunkBytes m j).atMost128
  refine SrcResponse.good_data_iff.mpr (hle.eq_or_lt.imp id fun hlt => ?_)
  rw [decide_eq_true hlt, Bool.true_or]

section
variable {s : State} {more : List HostInput} {src rest : List SrcResponse}

/-- A ready block executes the instruction at the head of the host's inputs. -/
theorem Ready.step_of_exec {i : Instr} {t : State} (h : Ready (.cmd (encode i) :: more) src s)
    (hx : exec i (takeCommand (encode i) more s) = .next t) : step s = .next t :=
  (step_takeCommand h.busy h.inputs).trans ((dispatch_of_decode (decode_encode i)).trans hx)

theorem Ready.step_pktFill {d : SrcBytes} {eos : Bool}
    (h : Ready (.cmd (encode .pktFill) :: more) (.data d eos :: rest) s)
    (hg : (SrcResponse.data d eos).good = true) :
    ∃ t, step s = .next t ∧ Ready more rest t ∧ t.filled = true ∧ payload t = some (padded d.bytes) ∧
      t.blk = s.blk ∧ t.tx = s.tx :=
  ⟨_, h.step_of_exec (exec_pktFill_good (s := takeCommand _ more s) h.err h.src hg),
    ⟨h.err, rfl, h.sinkReady, rfl, rfl⟩, rfl, payload_loaded (padded_length d.atMost128) rfl, rfl, rfl⟩

theorem Ready.step_pktCsum {l : List Byte} (h : Ready (.cmd (encode .pktCsum) :: more) src s)
    (hf : s.filled = true) (hl : payload s = some l) :
    ∃ t, step s = .next t ∧ Ready more src t ∧ t.valid = true ∧
      currentFrame t = some (frame s.blk l (crc16 l)) ∧ t.blk = s.blk ∧ t.tx = s.tx :=
  ⟨_, h.step_of_exec (exec_pktCsum_filled (s := takeCommand _ more s) h.err hf hl),
    ⟨h.err, rfl, h.sinkReady, rfl, h.src⟩, rfl, currentFrame_eq_some.mpr ⟨l, _, hl, rfl, rfl⟩, rfl, rfl⟩

theorem Ready.step_pktEmit {f : List Byte} (h : Ready (.cmd (encode .pktEmit) :: more) src s)
    (hv : s.valid = true) (hf : currentFrame s = some f) :
    ∃ t, step s = .next t ∧ Ready more src t ∧ t.blk = s.blk ∧ t.tx = s.tx ++ f :=
  ⟨_, h.step_of_exec (exec_pktEmit_sends (s := takeCommand _ more s) h.err hv hf h.sinkReady),
    ⟨h.err, rfl, h.sinkReady, rfl, h.src⟩, rfl, rfl⟩

theorem Ready.step_pktNext (h : Ready (.cmd (encode .pktNext) :: more) src s) :
    ∃ t, step s = .next t ∧ Ready more src t ∧ t.blk = s.blk + 1#8 ∧ t.tx = s.tx :=
  ⟨_, h.step_of_exec (exec_pktNext_running (s := takeCommand _ more s) h.err),
    ⟨h.err, rfl, h.sinkReady, rfl, h.src⟩, rfl, rfl⟩

/-- The canonical order for one packet sends one frame and goes on to the next block number (R102). -/
theorem Ready.stepN_packet {d : SrcBytes} {eos : Bool} (h : Ready (packetCommands ++ more) (.data d eos :: rest) s)
    (hg : (SrcResponse.data d eos).good = true) :
    ∃ t, stepN 4 s = .next t ∧ Ready more rest t ∧ t.blk = s.blk + 1#8 ∧
      t.tx = s.tx ++ frame s.blk (padded d.bytes) (crc16 (padded d.bytes)) := by
  obtain ⟨s1, h1, hr1, hf1, hl1, hb1, ht1⟩ := Ready.step_pktFill h hg
  obtain ⟨s2, h2, hr2, hv2, hf2, hb2, ht2⟩ := hr1.step_pktCsum hf1 hl1
  obtain ⟨s3, h3, hr3, hb3, ht3⟩ := hr2.step_pktEmit hv2 hf2
  obtain ⟨s4, h4, hr4, hb4, ht4⟩ := hr3.step_pktNext
  refine ⟨s4, ?_, hr4, by rw [hb4, hb3, hb2, hb1], by rw [ht4, ht3, ht2, ht1, hb1]⟩
  rw [stepN_succ 3 h1, stepN_succ 2 h2, stepN_succ 1 h3, stepN_succ 0 h4, stepN]

/-- The canonical order for the first `k` chunks. -/
theorem Ready.stepN_chunks (m : List Byte) (e : Nat → Bool) (k : Nat)
    (h : Ready (imageCommands k ++ more) ((List.range k).map (chunkAnswer m e) ++ rest) s) :
    ∃ t, stepN (4 * k) s = .next t ∧ Ready more rest t ∧ t.blk = s.blk + BitVec.ofNat 8 k ∧
      t.tx = s.tx ++ (List.range k).flatMap (chunkFrame s.blk m) := by
  induction k generalizing more rest with
  | zero => exact ⟨s, rfl, h, (BitVec.add_zero _).symm, (List.append_nil _).symm⟩
  | succ k ih =>
    rw [imageCommands_succ, List.range_succ, List.map_append, List.append_assoc, List.append_assoc] at h
    obtain ⟨u, hu, hready, hblk, htx⟩ := ih h
    obtain ⟨t, ht, hready', hblk', htx'⟩ := hready.stepN_packet (chunkAnswer_good m e k)
    refine ⟨t, (stepN_add 4 hu).trans ht, hready', ?_, ?_⟩
    · rw [hblk', hblk, BitVec.add_assoc, BitVec.ofNat_add]
    · rw [htx', htx, hblk, List.range_succ, List.flatMap_append, List.flatMap_singleton, List.append_assoc]
      rfl

end

end Sys2Proof.Machine
end

section
/-! The statements of 41_packet.md. -/

namespace Sys2Proof.Machine

/-- Settles O17: each effect on a running block raises the fault of its guard, or none. -/
theorem faultConditions : Obligations.FaultConditions := by
  intro i s t he h
  rw [← Instr.op_payload_iff, ← src_not_good_iff]
  cases exec_effect h with
  | refused _ hn => exact absurd he hn
  | emptyFaults _ hf hi =>
    have hfill : i ≠ .pktFill := by
      rintro rfl
      simp [Instr.op] at hi
    simp [BlockFault.code, hf, hi, hfill]
  | emitFaults _ hv => simp [BlockFault.code, hv]
  | fillFails _ hs hg => simp [Instr.op, hs, hg]
  | fillLoads _ hs hg => simp [Instr.op, he, hs, hg]
  | fillWaits _ hs => simp [Instr.op, he, hs]
  | sysRst | sysStat | crcClr | crcUpd | crcRd | pktInit | pktNext => simp [Instr.op, he]
  | pktPoke _ hf | pktPeek _ hf | pktCsum _ hf => simp [he, hf]
  | emitSends _ hv | emitWaits _ hv => simp [Instr.op, he, hv]

/-- Settles O31: the packet is loaded with the padded read, which is the read itself when it is full. -/
theorem pktFillLoadsPayload : Obligations.PktFillLoadsPayload := by
  refine ⟨rfl, fun s d eos rest he hs hg => ?_⟩
  refine ⟨_, exec_pktFill_good he hs (SrcResponse.good_data_iff.mpr hg), ?_, ?_, rfl⟩
  · intro k hk
    exact (Memory.read_loaded _ k).trans (getElem?_padded hk)
  · intro k hk
    refine (Memory.read_loaded _ k).trans (List.getElem?_eq_none ?_)
    rwa [padded_length d.atMost128]

/-- Settles O33: `PAY` is read at and beside the address written, and an index with bit 7 set is out of range. -/
theorem pktPokeResult : Obligations.PktPokeResult := by
  refine ⟨fun i b => ?_, fun a b ha => ?_, fun i b s he hf => ?_, fun i b s he hf => ?_, fun i b s he => ?_⟩
  · rw [← encode_pktPoke, decode_encode]
  · obtain ⟨hop, ha', -⟩ := fields_of_append 0x22#8 a b
    exact decode_eq_indexRange_iff.mpr ⟨.pktPoke, hop.symm, .inl rfl, (congrArg BitVec.msb ha').trans ha⟩
  · exact ⟨_, exec_pktPoke_filled he i b hf, Memory.read_write_same _ _ _,
      fun _ ha => Memory.read_write_other _ _ _ ha, rfl⟩
  · exact exec_of_not_filled he hf (.inl rfl)
  · exact exec_of_halted nofun nofun he

/-- Settles O35: the bytes read one by one are the payload, and its CRC is the byte step folded over it. -/
theorem pktCsumResult : Obligations.PktCsumResult := by
  refine ⟨rfl, fun s bytes he hf hlen hread => ?_, fun s he hf => ?_, fun s he => ?_⟩
  · rw [exec_pktCsum_filled he hf (payload_eq_some_iff.mpr ⟨hlen, hread⟩), crc16_eq_foldl]
    rfl
  · exact exec_of_not_filled he hf (.inr (.inr rfl))
  · exact exec_of_halted nofun nofun he

/-- Settles O37: the bytes read one by one and the checksum are the frame of the current packet. -/
theorem pktEmitResult : Obligations.PktEmitResult := by
  refine ⟨rfl, fun s bytes c he hv hr hlen hread hc => ?_, fun s he hv => ?_, fun s he => ?_⟩
  · have hl := payload_eq_some_iff.mpr ⟨hlen, hread⟩
    exact exec_pktEmit_sends he hv (currentFrame_eq_some.mpr ⟨bytes, c, hl, hc, rfl⟩) hr
  · exact exec_pktEmit_stale he hv
  · exact exec_of_halted nofun nofun he

/-- Settles O38: every effect that writes or discards the payload and does not fault clears `VALID`. -/
theorem staleChecksumIsNeverEmitted : Obligations.StaleChecksumIsNeverEmitted := by
  refine ⟨fun s he hv => exec_pktEmit_stale he hv, fun i s t hi h hsrc hb he => ?_, exec_pktEmit_stale rfl rfl⟩
  rw [exec_pktEmit_stale he ((exec_effect h).not_valid hi hsrc he), raise_of_idle _ hb]
  rfl

/-- Settles O39: the frame is read from fields that `PKT.EMIT` leaves alone, and TX grows only at its end. -/
theorem repeatedEmitSendsSameFrame : Obligations.RepeatedEmitSendsSameFrame := by
  refine ⟨fun s t h hne => ?_, fun s t h => ?_⟩
  · cases exec_effect h with
    | refused | emitFaults | emitWaits | emptyFaults => exact absurd rfl hne
    | @emitSends f he hv hf hr =>
      have hagain := exec_pktEmit_sends (s := respond 0x0000#16 (appendTx f s)) he hv
        ((currentFrame_congr rfl rfl rfl).trans hf) hr
      exact ⟨f, _, currentFrame_length hf, rfl, hagain, rfl, rfl, rfl, rfl, rfl, rfl, rfl, rfl⟩
  · by_cases htx : t.tx = s.tx
    · exact ⟨[], by rw [htx, List.append_nil]⟩
    · obtain ⟨f, hf, -⟩ := txGrowsByWholeFrames s t h htx
      exact ⟨f, hf⟩

/-- Settles O40: both frames are that of the one payload, each with the CRC of it. -/
theorem frameDependsOnBlkAndPayOnly : Obligations.FrameDependsOnBlkAndPayOnly := by
  intro s s' t t' hinv hinv' hblk hpay h h' hne hne'
  obtain ⟨l, hl, htx⟩ := execPktEmit_frame hinv h hne
  obtain ⟨l', hl', htx'⟩ := execPktEmit_frame hinv' h' hne'
  obtain rfl : l = l' := Option.some.inj (hl.symm.trans ((payload_of_pay hpay).trans hl'))
  exact ⟨_, htx, hblk ▸ htx'⟩

/-- Settles O50: chunk after chunk, each sent by the four commands of `Ready.stepN_packet`. -/
theorem imageIsEmittedFrameByFrame : Obligations.ImageIsEmittedFrameByFrame := by
  intro s m e more rest he hb hr hi hs
  rw [imageAnswers_eq_map] at hs
  rw [imageFrames_eq_flatMap]
  obtain ⟨t, ht, hready, hblk, htx⟩ := Ready.stepN_chunks m e (packetCount m.length) ⟨he, hb, hr, hi, hs⟩
  exact ⟨t, ht, htx, hblk, hready.inputs, hready.src, hready.err, hready.busy⟩

/-- Settles O14: the meaning in the two cases that wait. -/
theorem unansweredOperationsWait : Obligations.UnansweredOperationsWait :=
  ⟨fun _ he hs => exec_pktFill_unanswered he hs,
    fun _ _ _ he hv hl hc hr => exec_pktEmit_waits he hv (currentFrame_eq_some.mpr ⟨_, _, hl, hc, rfl⟩) hr⟩

/-- Settles O30: the meaning of a running and of a halted block. -/
theorem pktInitResult : Obligations.PktInitResult := by
  refine ⟨fun n => ?_, fun n s he => whenRunning_running he, fun n s he => whenRunning_halted he⟩
  rw [← encode_pktInit, decode_encode]

/-- Settles O32: both answers are such that `PKT.FILL` does not succeed on them. -/
theorem pktFillFaults : Obligations.PktFillFaults := by
  refine ⟨fun s r rest he hs hr => ?_, fun s he => whenRunning_halted he⟩
  rw [exec_pktFill_answered he hs, fillWith_of_not_good (SrcResponse.good_eq_false_iff.mpr hr)]
  rfl

/-- Settles O34: the byte read is widened, and an operand field that does not fit is reserved at decode. -/
theorem pktPeekResult : Obligations.PktPeekResult := by
  refine ⟨fun i => ?_, fun a b hab => decode_of_unfit (o := .pktPeek) ?_, fun i b s he hf hb => ?_,
    fun i s he hf => ?_, fun i s he => ?_⟩
  · rw [← encode_pktPeek, decode_encode]
  · obtain ha | hb := hab
    · simp [RawCommand.fits, Op.form, ha]
    · simp [RawCommand.fits, Op.form, hb]
  · rw [exec_pktPeek_filled he hf hb, zext16_byte]
    rfl
  · exact exec_of_not_filled he hf (.inr (.inl rfl))
  · exact exec_of_halted nofun nofun he

/-- Settles O36: addition of bytes wraps modulo 256. -/
theorem pktNextResult : Obligations.PktNextResult := by
  refine ⟨rfl, fun s he => ⟨s.blk + 1#8, BitVec.toNat_add _ _, ?_⟩, fun s he => whenRunning_halted he⟩
  rw [exec_pktNext_running he, zext16_byte]
  rfl

end Sys2Proof.Machine
end

section
/-! SUPPORT. The values of `STATUS` in states that meet the invariant (10_state.md R30, 42_system.md R131), and what a
halted block and a word reserved for its operand fields do (42_system.md R130, 60_exceptions.md R172 to R175). -/

namespace Sys2Proof.Machine

section
variable {s t : State}

/-- `STATUS` is `ERR` before its four bits of flags. -/
theorem status_eq_append (s : State) :
    s.status = s.err ++ (0b00#2 ++ BitVec.ofBool s.valid ++ BitVec.ofBool s.filled : BitVec 4) := by
  simp only [State.status, BitVec.append_assoc, BitVec.cast_eq]

/-- With `FILLED = 0` both flags are 0 (R29). -/
theorem StateInv.status_of_not_filled (h : StateInv s) {e : BitVec 4} (he : s.err = e) (hf : s.filled = false) :
    s.status = e ++ 0x0#4 := by
  rw [status_eq_append, he, hf, (stateInv_iff.mp h).1.not_valid hf]
  rfl

/-- With `VALID = 0` the flags have two values. -/
theorem StateInv.status_of_not_valid (h : StateInv s) {e : BitVec 4} (he : s.err = e) (hv : s.valid = false) :
    s.status = e ++ 0x0#4 ∨ s.status = e ++ 0x1#4 := by
  cases hf : s.filled with
  | false => exact .inl (h.status_of_not_filled he hf)
  | true =>
    rw [status_eq_append, he, hv, hf]
    exact .inr rfl

/-- `VALID = 1` implies `FILLED = 1`, so the flags have three values. -/
theorem StateInv.status_cases (h : StateInv s) {e : BitVec 4} (he : s.err = e) :
    s.status = e ++ 0x0#4 ∨ s.status = e ++ 0x1#4 ∨ s.status = e ++ 0x3#4 := by
  cases hv : s.valid with
  | false => exact (h.status_of_not_valid he hv).imp_right .inl
  | true =>
    rw [status_eq_append, he, hv, h.validFilled hv]
    exact .inr (.inr rfl)

/-- The data of the response of `SYS.STAT` is `STATUS`, widened. -/
theorem exec_sysStat (s : State) : exec .sysStat s = .next (respond (0x00#8 ++ s.status) s) := by
  rw [← zext16_byte]
  rfl

/-- No operation but `SYS.RST` changes the `ERR` of a halted block. -/
theorem exec_err_of_halted {i : Instr} (h : exec i s = .next t) (hi : i ≠ .sysRst) (he : s.err ≠ 0#4) :
    t.err = s.err := by
  by_cases hs : i = .sysStat
  · subst hs
    obtain rfl := execSysStat_next h
    rfl
  · obtain rfl := Host.Outcome.next.inj ((exec_of_halted hi hs he).symm.trans h)
    rfl

/-- A word whose operand fields do not fit the form of its `op` goes the way of reserved words. -/
theorem dispatch_of_unfit {o : Op} {a b : Byte} (h : RawCommand.fits ⟨o.code, a, b⟩ o.form = false) (s : State) :
    dispatch (o.code ++ a ++ b) s = reservedWord s := by
  obtain ⟨r, hd⟩ := decode_of_unfit h
  simp only [dispatch, hd]

end

end Sys2Proof.Machine
end

section
/-! The statements of 42_system.md. -/

namespace Sys2Proof.Machine

/-- Settles O19: the data is `STATUS` widened; `IllegalState` leaves `VALID = 0`, `FileReadError` `FILLED = 0`, and
`IllegalCommand` any flags. -/
theorem sysStatResult : Obligations.SysStatResult :=
  ⟨rfl, exec_sysStat, fun _ h =>
    ⟨h.status_cases,
     fun he => h.status_of_not_valid he (h.errState he),
     fun he => h.status_of_not_filled he (h.errRead he),
     h.status_cases,
     h.errLegal⟩⟩

/-- Settles O18: only `SYS.RST` escapes the refusal of a halted block with another `ERR`, and its `op` with an operand
bit set is a reserved word. -/
theorem sysRstResult : Obligations.SysRstResult := by
  refine ⟨rfl, fun s => rfl, fun i s t hi he h => exec_err_of_halted h hi he, fun a b s hab => ?_⟩
  have hunfit : RawCommand.fits ⟨Op.sysRst.code, a, b⟩ Op.sysRst.form = false := by
    obtain ha | hb := hab
    · simp [RawCommand.fits, Op.form, ha]
    · simp [RawCommand.fits, Op.form, hb]
  have hx := dispatch_of_unfit hunfit s
  exact ⟨fun he => hx.trans (whenRunning_running he), fun he => hx.trans (whenRunning_halted he)⟩

end Sys2Proof.Machine
end

section
/-! SUPPORT. A word that the block takes and does not execute: a reserved one, and one that a halted block refuses
(60_exceptions.md R172 to R175). -/

namespace Sys2Proof.Machine

variable {s : State} {w : Command}

/-- A reserved word is dispatched to the halted check and then to the fault (R173 steps 4 and 5). -/
theorem dispatch_of_reserved {r : Reserved} (h : decode w = .error r) : dispatch w s = reservedWord s := by
  simp only [dispatch, h]

/-- A halted block refuses every word, legal or reserved, but the one word of `SYS.RST` and that of `SYS.STAT` (R175). -/
theorem dispatch_of_halted (he : s.err ≠ 0#4) (hr : w ≠ Op.sysRst.matchBits) (hs : w ≠ Op.sysStat.matchBits) :
    dispatch w s = .next (refuse s) := by
  cases hd : decode w with
  | error r => exact (dispatch_of_reserved hd).trans (whenRunning_halted he)
  | ok i =>
    have hir : i ≠ .sysRst := by
      rintro rfl
      exact hr (eq_matchBits_of_decode hd rfl)
    have his : i ≠ .sysStat := by
      rintro rfl
      exact hs (eq_matchBits_of_decode hd rfl)
    exact (dispatch_of_decode hd).trans (exec_of_halted hir his he)

/-- A fault of a word that was just taken leaves only the word taken, `ERR` and the response behind (R174). -/
theorem raise_takeCommand (f : BlockFault) (rest : List HostInput) (hb : s.busy = none) :
    raise f (takeCommand w rest s) =
      { s with err := f.code, inputs := rest, rsps := s.rsps ++ [⟨f.code, 0x0000#16⟩] } := by
  simp only [raise, takeCommand, hb]

/-- The refusal of a word that was just taken leaves only the word taken and the response behind (R175). -/
theorem refuse_takeCommand (rest : List HostInput) (hb : s.busy = none) :
    refuse (takeCommand w rest s) = { s with inputs := rest, rsps := s.rsps ++ [⟨s.err, 0x0000#16⟩] } := by
  simp only [refuse, takeCommand, hb]

end Sys2Proof.Machine
end

section
/-! The statements of 60_exceptions.md. -/

namespace Sys2Proof.Machine

/-- Settles O10: a word that selects no row of the opcode map is reserved, and the running block raises the fault on
the state with the word taken. -/
theorem reservedWordRaisesIllegalCommand : Obligations.ReservedWordRaisesIllegalCommand := by
  intro s w rest hb hi he hw
  have hd : decode w = .error (reservedReason w) := decode_of_selects_none fun o => beq_false_of_ne (hw o)
  calc step s
    _ = dispatch w (takeCommand w rest s) := step_takeCommand hb hi
    _ = reservedWord (takeCommand w rest s) := dispatch_of_reserved hd
    _ = .next (raise .illegalCommand (takeCommand w rest s)) := whenRunning_running he
    _ = _ := congrArg _ (raise_takeCommand .illegalCommand rest hb)

/-- Settles O11: taking the word leaves the block halted, so its dispatch refuses it. -/
theorem haltedBlockRefuses : Obligations.HaltedBlockRefuses := by
  intro s w rest hb hi he hr hs
  calc step s
    _ = dispatch w (takeCommand w rest s) := step_takeCommand hb hi
    _ = .next (refuse (takeCommand w rest s)) := dispatch_of_halted he hr hs
    _ = _ := congrArg _ (refuse_takeCommand rest hb)

end Sys2Proof.Machine
end

section
/-! The statement of 70_reset_and_hazards.md on the two resets (R190). -/

namespace Sys2Proof.Machine

/-- Settles O12: `rst` is `resetBlock` on the state with the input taken, `SYS.RST` is `resetBlock` and a response. -/
theorem bothResetsHaveOneEffect : Obligations.BothResetsHaveOneEffect := by
  refine ⟨fun s rest hb hi => step_takeRst hb hi, fun s => rfl, fun s t h => ?_⟩
  obtain rfl := execSysRst_next h
  exact ⟨lifecycle_empty rfl rfl rfl, rfl, rfl, Memory.read_nil⟩

end Sys2Proof.Machine
end
